-- ==== Sys2Proof/Word.lean ====
section
/-! DEFINITION. The word types of the compositor (spec R12): all quantities are unsigned, bit 0 is the
least significant. -/

namespace Sys2Proof

/-- The 32-bit command word (R90). -/
abbrev Word := BitVec 32

/-- One row of a grid: `COLS` = 32 bits, bit c is column c (R20, R62). -/
abbrev Row := BitVec 32

/-- An 8-bit value: a result (R35), a row-select byte (R204). -/
abbrev Byte := BitVec 8

/-- A segment pattern, bit 0 = segment a … bit 6 = segment g (R120). -/
abbrev Pattern := BitVec 7

/-- A `TW` = 32 bit millisecond timestamp or duration (R24, R25, R31). -/
abbrev Time := BitVec 32

/-- A row frame or the content of the shift chain: `FRAME_W` = `CHAIN_BITS` = 40 bits (R8, R211). -/
abbrev Frame := BitVec 40

/-- A bit grid of `ROWS` = 8 row words (R20, R21, R22). Two grids are equal exactly when they hold the
same 256 bits. -/
abbrev Grid := Vector Row 8

end Sys2Proof
end

