-- ==== Sys2Proof/Config.lean ====
section
/-! DEFINITION. The configuration of the compositor: the shape and class count of this hardware (R5, R6,
R8, R9), the speed classes and phases by name, and the two parameters the spec leaves without a value
that no state may depend on. The parameters that hold a VALUE a test can show wrong (durations, font,
row select, reset values) stand in Machine/Params.lean. -/

namespace Sys2Proof.Config

/-- Rows of every grid (R5; D29). -/
abbrev ROWS : Nat := 8

/-- Columns of every grid (R5; D29). -/
abbrev COLS : Nat := 32

/-- Number of speed classes (R6; C5). -/
abbrev NCLASS : Nat := 2

/-- Width of a digit field (R8). -/
abbrev SPAN_W : Nat := 8

/-- Width of a segment pattern (R8). -/
abbrev SEG_W : Nat := 7

/-- Width of the row-select byte (R8). -/
abbrev ROWSEL_W : Nat := 8

/-- Bits shifted out per row: `COLS` + 8 (R8, R203). -/
abbrev FRAME_W : Nat := 40

/-- Length of the environment's shift chain (R9, R211; D27). -/
abbrev CHAIN_BITS : Nat := 40

/-- Number of enumerated glyph codes (R9, R122). -/
abbrev NGLYPH : Nat := 30

/-- A valid speed-class index. -/
abbrev ClassIx := Fin NCLASS

/-- The class NORMAL has index 0 (R6, R95). -/
abbrev NORMAL : ClassIx := 0

/-- The class SLOW has index 1 (R6, R95). -/
abbrev SLOW : ClassIx := 1

/-- The minimum clock pulse width in microseconds: OPEN (R9, R206). A constant with no body, so that
nothing can be proved of its value; no state depends on it (R282). Log entry 11. -/
opaque T_PW_US : Nat

/-- The level of the output-enable line that enables the chain's outputs: OPEN (R207, U14). Used only to
say what shows; no state depends on it. Log entry 6. -/
opaque OE_ENABLE : Bool

end Sys2Proof.Config

namespace Sys2Proof

/-- The phase flag of a speed class (R23): the two named phases. -/
inductive Phase where
  | bright
  | dark
  deriving DecidableEq, Repr

end Sys2Proof
end

