-- ==== Sys2Proof/Syntax.lean ====
section
/-! DEFINITION. The eleven operations of the public surface (R3, R92), operands in the assembler's order
(R100). A coordinate, class index or glyph selector is a number (R91: "Each field is used as an
unsigned integer"); that it fits its 8-bit field is WellFormed's check. -/

namespace Sys2Proof

/-- One constructor per row of spec/opcode_table.json. -/
inductive Instr where
  /-- `setLed(row, col)` (R130). -/
  | setled (row col : Nat)
  /-- `clearLed(row, col)` (R131). -/
  | clrled (row col : Nat)
  /-- `toggleLed(row, col)` (R132). -/
  | tglled (row col : Nat)
  /-- `isLedOn(row, col)` (R133). -/
  | isledon (row col : Nat)
  /-- `setDigit(row, col0, glyph, decimalPointOn)` (R140). -/
  | setdigit (row col0 glyph : Nat) (dp : Bool)
  /-- `setBlink(row, col, speedClass)` (R151). -/
  | setblink (row col k : Nat)
  /-- `clearBlink(row, col, speedClass)` (R152). -/
  | clrblink (row col k : Nat)
  /-- `setDigitBlink(row, col0, includeDecimalPoint, speedClass)` (R153). -/
  | setdigblink (row col0 : Nat) (dp : Bool) (k : Nat)
  /-- `clearDigitBlink(row, col0, includeDecimalPoint, speedClass)` (R154). -/
  | clrdigblink (row col0 : Nat) (dp : Bool) (k : Nat)
  /-- `queryBlink(row, col, speedClass)` (R155). -/
  | qryblink (row col k : Nat)
  /-- `refresh()` (R170). -/
  | refresh
  deriving DecidableEq, Repr

/-- The operation's mnemonic in the opcode table (R92). -/
def Instr.mnemonic : Instr → String
  | .setled _ _ => "SETLED"
  | .clrled _ _ => "CLRLED"
  | .tglled _ _ => "TGLLED"
  | .isledon _ _ => "ISLEDON"
  | .setdigit _ _ _ _ => "SETDIGIT"
  | .setblink _ _ _ => "SETBLINK"
  | .clrblink _ _ _ => "CLRBLINK"
  | .setdigblink _ _ _ _ => "SETDIGBLINK"
  | .clrdigblink _ _ _ _ => "CLRDIGBLINK"
  | .qryblink _ _ _ => "QRYBLINK"
  | .refresh => "REFRESH"

end Sys2Proof
end

