-- ==== Sys2Proof/WellFormed.lean ====
section
/-! DEFINITION. Which instruction terms a command word can spell: every numeric operand fits its 8-bit
field (R90, R91: "values above 255 and negative values cannot be spelled at all"). An operand that fits
its field but is out of range for the panel is well formed; the operation rejects it (R231). -/

namespace Sys2Proof

/-- The operand fits an 8-bit field. -/
def fitsByte (n : Nat) : Bool := decide (n < 256)

/-- Every operand of the instruction can be spelled in the command word. -/
def Instr.wellFormed : Instr → Bool
  | .setled row col => fitsByte row && fitsByte col
  | .clrled row col => fitsByte row && fitsByte col
  | .tglled row col => fitsByte row && fitsByte col
  | .isledon row col => fitsByte row && fitsByte col
  | .setdigit row col0 glyph _ => fitsByte row && fitsByte col0 && fitsByte glyph
  | .setblink row col k => fitsByte row && fitsByte col && fitsByte k
  | .clrblink row col k => fitsByte row && fitsByte col && fitsByte k
  | .setdigblink row col0 _ k => fitsByte row && fitsByte col0 && fitsByte k
  | .clrdigblink row col0 _ k => fitsByte row && fitsByte col0 && fitsByte k
  | .qryblink row col k => fitsByte row && fitsByte col && fitsByte k
  | .refresh => true

/-- `Instr.wellFormed` as a proposition. -/
abbrev Instr.WellFormed (i : Instr) : Prop := i.wellFormed = true

end Sys2Proof
end

