-- ==== Sys2Proof/Decode.lean ====
section
/-! DEFINITION. The command word: its fields (R90, R91), the decoder (R92, R93, R96), the encoder (R90,
R100), the match/mask table of R93, and the host's reading of an opcode-table word. -/

namespace Sys2Proof

/-- Field `op`, bits 31:28 (R90). -/
def opField (w : Word) : Nat := (w.extractLsb' 28 4).toNat

/-- Field `rsv`, bits 27:25 (R90). -/
def rsvField (w : Word) : Nat := (w.extractLsb' 25 3).toNat

/-- Field `f`, bit 24 (R90). -/
def flagField (w : Word) : Bool := w.getLsbD 24

/-- Field `row`, bits 23:16 (R90). -/
def rowField (w : Word) : Nat := (w.extractLsb' 16 8).toNat

/-- Field `col`, bits 15:8 (R90). -/
def colField (w : Word) : Nat := (w.extractLsb' 8 8).toNat

/-- Field `arg`, bits 7:0 (R90). -/
def argField (w : Word) : Nat := (w.extractLsb' 0 8).toNat

/-- Why a word spells no operation: the cases of R96, by name. All have the one effect of
`raise IllegalCommand`. -/
inductive Illegal where
  /-- `op` is 0x0 or 0xC to 0xF. -/
  | reservedOp
  /-- `rsv` is not zero. -/
  | reservedBits
  /-- `f` = 1 with an operation that does not use it. -/
  | unusedFlag
  /-- `arg` not zero with an operation that does not use it. -/
  | unusedArg
  /-- `row` or `col` not zero with `REFRESH`. -/
  | unusedPosition
  deriving DecidableEq, Repr

/-- The operation does not use `f`, so it must be zero (R90). -/
def needNoFlag (w : Word) (d : Except Illegal Instr) : Except Illegal Instr :=
  if flagField w then .error .unusedFlag else d

/-- The operation does not use `arg`, so it must be zero (R90). -/
def needNoArg (w : Word) (d : Except Illegal Instr) : Except Illegal Instr :=
  if argField w = 0 then d else .error .unusedArg

/-- The operation does not use `row` and `col`, so they must be zero (R93, R96). -/
def needNoPosition (w : Word) (d : Except Illegal Instr) : Except Illegal Instr :=
  if rowField w = 0 ∧ colField w = 0 then d else .error .unusedPosition

/-- The operation a command word spells (R92, R93), or why it spells none (R96). Total on all 2^32
words; no operand is looked at beyond its must-be-zero check (R236). -/
def decode (w : Word) : Except Illegal Instr :=
  let row := rowField w
  let col := colField w
  let arg := argField w
  if rsvField w = 0 then
    match opField w with
    | 0x1 => needNoFlag w (needNoArg w (.ok (.setled row col)))
    | 0x2 => needNoFlag w (needNoArg w (.ok (.clrled row col)))
    | 0x3 => needNoFlag w (needNoArg w (.ok (.tglled row col)))
    | 0x4 => needNoFlag w (needNoArg w (.ok (.isledon row col)))
    | 0x5 => .ok (.setdigit row col arg (flagField w))
    | 0x6 => needNoFlag w (.ok (.setblink row col arg))
    | 0x7 => needNoFlag w (.ok (.clrblink row col arg))
    | 0x8 => .ok (.setdigblink row col (flagField w) arg)
    | 0x9 => .ok (.clrdigblink row col (flagField w) arg)
    | 0xA => needNoFlag w (.ok (.qryblink row col arg))
    | 0xB => needNoFlag w (needNoArg w (needNoPosition w (.ok .refresh)))
    | _ => .error .reservedOp
  else .error .reservedBits

/-- The word `op ++ rsv ++ f ++ row ++ col ++ arg` with `rsv` = 0 (R90). A number that does not fit its
field keeps its low bits; WellFormed rules that out. -/
def commandWord (op : Nat) (f : Bool) (row col arg : Nat) : Word :=
  BitVec.ofNat 4 op ++ 0#3 ++ BitVec.ofBool f ++ BitVec.ofNat 8 row ++ BitVec.ofNat 8 col ++ BitVec.ofNat 8 arg

/-- The command word of an operation (R92, R100). -/
def encode : Instr → Word
  | .setled row col => commandWord 0x1 false row col 0
  | .clrled row col => commandWord 0x2 false row col 0
  | .tglled row col => commandWord 0x3 false row col 0
  | .isledon row col => commandWord 0x4 false row col 0
  | .setdigit row col0 glyph dp => commandWord 0x5 dp row col0 glyph
  | .setblink row col k => commandWord 0x6 false row col k
  | .clrblink row col k => commandWord 0x7 false row col k
  | .setdigblink row col0 dp k => commandWord 0x8 dp row col0 k
  | .clrdigblink row col0 dp k => commandWord 0x9 dp row col0 k
  | .qryblink row col k => commandWord 0xA false row col k
  | .refresh => commandWord 0xB false 0 0 0

/-- One row of the match/mask table of R93. -/
structure OpRow where
  mnemonic : String
  mask : Word
  value : Word
  deriving DecidableEq, Repr

/-- The match/mask table of R93 (the column the spec calls match is `value` here). The decoder does not
use it; that the two agree is an obligation. -/
def opTable : List OpRow :=
  [⟨"SETLED", 0xFF0000FF#32, 0x10000000#32⟩,
   ⟨"CLRLED", 0xFF0000FF#32, 0x20000000#32⟩,
   ⟨"TGLLED", 0xFF0000FF#32, 0x30000000#32⟩,
   ⟨"ISLEDON", 0xFF0000FF#32, 0x40000000#32⟩,
   ⟨"SETDIGIT", 0xFE000000#32, 0x50000000#32⟩,
   ⟨"SETBLINK", 0xFF000000#32, 0x60000000#32⟩,
   ⟨"CLRBLINK", 0xFF000000#32, 0x70000000#32⟩,
   ⟨"SETDIGBLINK", 0xFE000000#32, 0x80000000#32⟩,
   ⟨"CLRDIGBLINK", 0xFE000000#32, 0x90000000#32⟩,
   ⟨"QRYBLINK", 0xFF000000#32, 0xA0000000#32⟩,
   ⟨"REFRESH", 0xFFFFFFFF#32, 0xB0000000#32⟩]

/-- The command word whose low `nbits` bits are `w`, every bit above them zero. -/
def tableWord (nbits w : Nat) : Word := BitVec.ofNat 32 (w % 2 ^ nbits)

/-- The instruction the decoder reads from the bits `w` of an opcode-table row of `nbits` bits. A command
is one 32-bit word on a port (R90, R97), so no byte order enters; a longer row is no command. -/
def decodeTableWord (nbits w : Nat) : Option Instr :=
  if nbits ≤ 32 then
    match decode (tableWord nbits w) with
    | .ok i => some i
    | .error _ => none
  else none

end Sys2Proof
end

