-- ==== Sys2Proof/Machine/Params.lean ====
section
/-! DEFINITION. The parameters of the compositor that have a value (R7, R9): phase durations, segment font,
row-select byte, result codes, and the values the model names for reset. -/

namespace Sys2Proof.Machine

open Sys2Proof.Config

/-- Bright-phase durations in milliseconds, [NORMAL, SLOW] (R7, R26). -/
def BRIGHT_MS : Vector Time NCLASS := #v[1000#32, 2000#32]

/-- Dark-phase durations in milliseconds, [NORMAL, SLOW] (R7, R26). -/
def DARK_MS : Vector Time NCLASS := #v[1000#32, 6000#32]

/-- The configured length of class k's phase p (R25). -/
def durationOf (k : ClassIx) : Phase → Time
  | .bright => BRIGHT_MS[k]
  | .dark => DARK_MS[k]

/-- The segment font (R122): the spec's default table, which it marks as general knowledge (U1).
PRESUMED; unsafe for a claim that names a pattern value. Log entry 8. -/
def FONT : Vector Pattern NGLYPH :=
  #v[0x3F#7, 0x06#7, 0x5B#7, 0x4F#7, 0x66#7, 0x6D#7, 0x7D#7, 0x07#7, 0x7F#7, 0x6F#7,
     0x00#7, 0x49#7, 0x36#7, 0x77#7, 0x7C#7, 0x39#7, 0x5E#7, 0x79#7, 0x71#7, 0x76#7,
     0x38#7, 0x5C#7, 0x73#7, 0x50#7, 0x3E#7, 0x1C#7, 0x40#7, 0x63#7, 0x58#7, 0x08#7]

/-! The enumerated glyph codes, in the order the source lists the glyphs (R122; the numbers are D8). -/

abbrev G_0 : Fin NGLYPH := 0
abbrev G_1 : Fin NGLYPH := 1
abbrev G_2 : Fin NGLYPH := 2
abbrev G_3 : Fin NGLYPH := 3
abbrev G_4 : Fin NGLYPH := 4
abbrev G_5 : Fin NGLYPH := 5
abbrev G_6 : Fin NGLYPH := 6
abbrev G_7 : Fin NGLYPH := 7
abbrev G_8 : Fin NGLYPH := 8
abbrev G_9 : Fin NGLYPH := 9
abbrev G_SPACE : Fin NGLYPH := 10
abbrev G_HBARS : Fin NGLYPH := 11
abbrev G_VBARS : Fin NGLYPH := 12
abbrev G_A : Fin NGLYPH := 13
abbrev G_b : Fin NGLYPH := 14
abbrev G_C : Fin NGLYPH := 15
abbrev G_d : Fin NGLYPH := 16
abbrev G_E : Fin NGLYPH := 17
abbrev G_F : Fin NGLYPH := 18
abbrev G_H : Fin NGLYPH := 19
abbrev G_L : Fin NGLYPH := 20
abbrev G_o : Fin NGLYPH := 21
abbrev G_P : Fin NGLYPH := 22
abbrev G_r : Fin NGLYPH := 23
abbrev G_U : Fin NGLYPH := 24
abbrev G_u : Fin NGLYPH := 25
abbrev G_MINUS : Fin NGLYPH := 26
abbrev G_DEGREE : Fin NGLYPH := 27
abbrev G_c : Fin NGLYPH := 28
abbrev G_ERROR : Fin NGLYPH := 29

/-- The row-select byte of row r, one-hot, bit r for row r (R204; the spec's decision D16). -/
def ROWSEL (r : Nat) : Byte := 1#8 <<< r

/-- Result of a performed mutating operation, of a lit position, of a member, of every `REFRESH`; also
named TRUE and ON (R94; the number is the spec's decision D6). -/
abbrev OK : Byte := 0x01#8

/-- Result of a rejected mutating operation, of an unlit or out-of-range position, of a non-member; also
named FALSE and OFF (R94; D6). -/
abbrev FAIL : Byte := 0x00#8

/-- Result of `QRYBLINK` whose position or class is out of range (R94; D6). -/
abbrev INVALID : Byte := 0xFF#8

/-- Result of a word that spells no operation (R94, R96; D6). -/
abbrev ILLEGAL : Byte := 0xFE#8

/-- Reset value of every class's phase flag (R9, R38; D11). -/
def PHASE_INIT : Vector Phase NCLASS := #v[.bright, .bright]

/-- Reset value of every class's current phase duration (R9, R38; D11). -/
def DUR_INIT : Vector Time NCLASS := BRIGHT_MS

/-- The value this model names for the open parameter `T0_INIT` (R24): the two differ, as C1 says they
do, by the offset that vector P7(b) names. DESIGN CHOICE; unsafe. Log entry 4. -/
def T0_INIT : Vector Time NCLASS := #v[500#32, 0#32]

/-- The value this model names for the millisecond counter at reset, which the spec leaves unspecified
(R31): the first sample of P7(b). DESIGN CHOICE; unsafe. Log entry 5. -/
def NOW_INIT : Time := 500#32

/-- The value this model names for the open parameter `OE_LEVEL` (R27, R207): low. DESIGN CHOICE; unsafe.
Log entry 6. -/
def OE_LEVEL : Bool := false

/-- The value this model names for the shift chain at power-on, which the spec leaves unspecified (R30).
DESIGN CHOICE; unsafe. Log entry 7. -/
def SR_INIT : Frame := 0#40

/-- The value this model names for the chain's latch at power-on, which the spec leaves unspecified (R30).
DESIGN CHOICE; unsafe. Log entry 7. -/
def LATCH_INIT : Frame := 0#40

end Sys2Proof.Machine
end

