-- ==== Sys2Proof/Machine/State.lean ====
section
/-! DEFINITION. The machine's state as plain data: the block's own state (R20 to R27), the three ports
(R34 to R37), and the environment the block is connected to (R30, R31). -/

namespace Sys2Proof.Machine

open Sys2Proof.Config

/-- The four output lines (R27). -/
inductive Line where
  | clk
  | data
  | stb
  | oe
  deriving DecidableEq, Repr

/-- The line register `PIN`: the level now driven on each line, `false` low and `true` high (R13, R27). -/
structure Pins where
  clk : Bool
  data : Bool
  stb : Bool
  oe : Bool
  deriving DecidableEq, Repr

/-- An event on the line port (R37): the two primitives of the output sink (R214). -/
inductive LineEvent where
  /-- `PinWrite(line, level)`. -/
  | pinWrite (line : Line) (level : Bool)
  /-- `DelayUs(T_PW_US)`: wait at least `Config.T_PW_US` microseconds. No other delay is ever emitted
  (R205), and it changes no state (R206). Log entry 11. -/
  | delayUs
  deriving DecidableEq, Repr

/-- What a sink observes of the lines (R214): the DATA and STB levels at a rising clock edge, or an edge
of STB. Two records of a refresh are equal for the spec when they give the same list of these. -/
inductive LineObs where
  | bit (data stb : Bool)
  | strobe (level : Bool)
  deriving DecidableEq, Repr

/-- ENVIRONMENT, the reference sink of R211: the shift register `SR` and the output register `LATCH`.
PRESUMED (the spec's own general knowledge, U4). Log entry 7. -/
structure Sink where
  SR : Frame
  LATCH : Frame
  deriving DecidableEq, Repr

/-- The line register and the chain that listens on it: what one line event acts on. -/
structure Wires where
  PIN : Pins
  sink : Sink
  deriving DecidableEq, Repr

/-- The phase triple of one speed class (R23, R24, R25). -/
structure ClassPhase where
  ph : Phase
  t0 : Time
  dur : Time
  deriving DecidableEq, Repr

/-- A move of an agent outside the block (R10). Log entry 1. -/
inductive Input where
  /-- The host issues a command word at the command port (R34). -/
  | issue (w : Word)
  /-- The millisecond counter advances by d, 0 ≤ d < 2^TW (R31). -/
  | tick (d : Time)
  deriving DecidableEq, Repr

/-- The whole state. There is no program counter, no byte memory and no stored error (R32, R33, R233). -/
@[ext]
structure State where
  /-- Logical Matrix (R20). -/
  L : Grid
  /-- Physical Matrix (R21). -/
  P : Grid
  /-- Membership masks, one grid per speed class (R22). -/
  M : Vector Grid NCLASS
  /-- Phase flag per class (R23). -/
  PH : Vector Phase NCLASS
  /-- Phase-start timestamp per class (R24). -/
  T0 : Vector Time NCLASS
  /-- Current phase duration per class (R25). -/
  DUR : Vector Time NCLASS
  /-- Line register (R27). -/
  PIN : Pins
  /-- Result port: the value the last completed command presented; none before the first (R35, R261).
  No rule reads it. -/
  result : Option Byte
  /-- Line port: the line events of the last completed command, in order (R37). No rule reads it. -/
  events : List LineEvent
  /-- ENVIRONMENT: the outside agents' moves still to come, the next first (R10, R34, R71). -/
  inputs : List Input
  /-- ENVIRONMENT: the millisecond counter `NOW`, which the block samples and never writes (R31, R36). -/
  NOW : Time
  /-- ENVIRONMENT: the shift-register chain behind the lines (R30, R211). -/
  sink : Sink
  deriving DecidableEq, Repr

/-- Why a step could stop: nothing. The block has no fault: "A model's step function is therefore total
and never faults, hangs or refuses on any command word" (R11). An empty type, so that no step can answer
a fault: safe. Log entry 12. -/
inductive Fault where
  deriving DecidableEq, Repr

/-- Why an instruction could have no meaning. -/
inductive Refusal where
  /-- Raised only by an arm of `exec` for an instruction with no meaning yet (safe); no arm raises it. -/
  | notModelled (mnemonic : String)
  deriving DecidableEq, Repr

/-- A grid of zeros (R38). -/
def emptyGrid : Grid := Vector.replicate ROWS 0#32

/-- The state after reset for given values of everything the spec leaves open there (R38): the open
parameters `T0_INIT` and `OE_LEVEL`, and the environment's counter and chain. -/
def State.resetWith (t0 : Vector Time NCLASS) (oe : Bool) (now : Time) (chain : Sink) : State where
  L := emptyGrid
  P := emptyGrid
  M := Vector.replicate NCLASS emptyGrid
  PH := PHASE_INIT
  T0 := t0
  DUR := DUR_INIT
  PIN := ⟨false, false, false, oe⟩
  result := none
  events := []
  inputs := []
  NOW := now
  sink := chain

/-- The machine right after reset, the open values at the ones the model names (log entries 4 to 7). -/
def State.reset : State := State.resetWith T0_INIT OE_LEVEL NOW_INIT ⟨SR_INIT, LATCH_INIT⟩

end Sys2Proof.Machine
end

