-- ==== Sys2Proof/Machine/Ops.lean ====
section
/-! DEFINITION. The named operations over grids and state (R13): reading and writing n bits of a row, the
membership masks, and completing an operation. Raising `InvalidParam` or `IllegalCommand` stands here as
the block's one form of taking an exception (R230, R234); there is no return from one (R237, R238). -/

namespace Sys2Proof.Machine

open Sys2Proof.Config

/-- Row r of a grid; zero for a row that does not exist, which no rule reads. Log entry 13. -/
def rowOf (G : Grid) (r : Nat) : Row :=
  if h : r < ROWS then G[r] else 0#32

/-- Row r of a grid set to w; nothing for a row that does not exist, which no rule writes. -/
def setRow (G : Grid) (r : Nat) (w : Row) : Grid :=
  if h : r < ROWS then G.set r w else G

/-- Bit (r, c) of a grid: column c is bit c of the row word (R62). -/
def bitOf (G : Grid) (r c : Nat) : Bool := (rowOf G r).getLsbD c

/-- `MemRead(G, r, c, n)`: the n bits of row r from column c up (R13). -/
def memRead (G : Grid) (r c n : Nat) : BitVec n := (rowOf G r).extractLsb' c n

/-- The row word with its n bits from column c up replaced by v. -/
def insertBits {n : Nat} (w : Row) (c : Nat) (v : BitVec n) : Row :=
  (w &&& ~~~((BitVec.allOnes n).setWidth 32 <<< c)) ||| (v.setWidth 32 <<< c)

/-- `MemWrite(G, r, c, n, v)`: the n bits of row r from column c up become v, every other bit stays (R13). -/
def memWrite {n : Nat} (G : Grid) (r c : Nat) (v : BitVec n) : Grid :=
  setRow G r (insertBits (rowOf G r) c v)

/-- Membership mask `M[k]`; the empty grid for a class that does not exist, which no rule reads. -/
def State.maskOf (s : State) (k : Nat) : Grid :=
  if h : k < NCLASS then s.M[k] else emptyGrid

/-- `L` replaced. -/
def State.withL (s : State) (G : Grid) : State := { s with L := G }

/-- `M[k]` replaced, the other class's mask kept (R156). -/
def State.withMask (s : State) (k : Nat) (G : Grid) : State :=
  { s with M := if h : k < NCLASS then s.M.set k G else s.M }

/-- The operation completes with its result and its line events on the ports (R35, R37). -/
def State.complete (s : State) (r : Byte) (ev : List LineEvent) : State :=
  { s with result := some r, events := ev }

/-- A performed operation that emits no line event: `result <- r` (R13). -/
def finish (r : Byte) (s : State) : Host.Outcome State Fault Refusal := .next (s.complete r [])

/-- `raise InvalidParam`: the operation is rejected; no state is written, the result is the operation's
failure value (R13, R230, R232). -/
def raiseInvalidParam (failure : Byte) (s : State) : Host.Outcome State Fault Refusal :=
  .next (s.complete failure [])

/-- `raise IllegalCommand`: no state is written, no line event is emitted, the result is 0xFE (R13, R96). -/
def raiseIllegalCommand (s : State) : Host.Outcome State Fault Refusal :=
  .next (s.complete ILLEGAL [])

end Sys2Proof.Machine
end

