-- ==== Sys2Proof/Machine/Operands.lean ====
section
/-! DEFINITION. The operand forms: the three validity tests, all unsigned and in the integers (R14), the
glyph selector's lookup (R120 to R123), and a query's bit as a result (R133, R155). -/

namespace Sys2Proof.Machine

open Sys2Proof.Config

/-- `ValidPos(row, col)` (R134). -/
abbrev ValidPos (row col : Nat) : Prop := row < ROWS ∧ col < COLS

/-- `ValidSpan(row, col0)`: the whole 8-column span is in range; the sum never wraps (R14, R141). -/
abbrev ValidSpan (row col0 : Nat) : Prop := row < ROWS ∧ col0 + 7 < COLS

/-- `ValidClass(k)` (R150). -/
abbrev ValidClass (k : Nat) : Prop := k < NCLASS

/-- `FontLookup(sel)`, total (R121, R123): an enumerated code, else an ASCII digit, else ERROR. -/
def fontLookup (sel : Nat) : Pattern :=
  if h : sel < NGLYPH then FONT[sel]
  else if h : 0x30 ≤ sel ∧ sel ≤ 0x39 then FONT[sel - 0x30]'(show sel - 0x30 < 30 by omega)
  else FONT[G_ERROR]

/-- The span byte of a digit: `dp ++ pat[6:0]`, the point the highest-order bit (R63, R140). -/
def digitByte (glyph : Nat) (dp : Bool) : Byte := BitVec.ofBool dp ++ fontLookup glyph

/-- One bit as a result: `zext_8` (R94, R133, R155). -/
def bitResult (b : BitVec 1) : Byte := b.setWidth 8

end Sys2Proof.Machine
end

