-- ==== Sys2Proof/Machine/Blink.lean ====
section
/-! DEFINITION. The blink membership operations SETBLINK, CLRBLINK, SETDIGBLINK, CLRDIGBLINK, QRYBLINK
(spec 43_blink_ops.md). -/

namespace Sys2Proof.Machine

/-- The shared form of the two single-position writes (R151, R152). -/
def writeBlink (row col k : Nat) (b : BitVec 1) (s : State) : Host.Outcome State Fault Refusal :=
  if ValidPos row col ∧ ValidClass k then
    finish OK (s.withMask k (memWrite (s.maskOf k) row col b))
  else raiseInvalidParam FAIL s

/-- The seven segment columns, and the decimal-point column only when the flag is set (R153, R154). -/
def writeDigitMask (G : Grid) (row col0 : Nat) (dp : Bool) (seg : BitVec 7) (pt : BitVec 1) : Grid :=
  let G₁ := memWrite G row col0 seg
  if dp then memWrite G₁ row (col0 + 7) pt else G₁

/-- The shared form of the two span writes: the span is checked on all 8 columns whatever the flag
(R153, R154; D21, C4). -/
def writeDigitBlink (row col0 : Nat) (dp : Bool) (k : Nat) (seg : BitVec 7) (pt : BitVec 1) (s : State) :
    Host.Outcome State Fault Refusal :=
  if ValidSpan row col0 ∧ ValidClass k then
    finish OK (s.withMask k (writeDigitMask (s.maskOf k) row col0 dp seg pt))
  else raiseInvalidParam FAIL s

/-- `SETBLINK row, col, k` (R151). -/
def execSetblink (row col k : Nat) (s : State) : Host.Outcome State Fault Refusal :=
  writeBlink row col k 1#1 s

/-- `CLRBLINK row, col, k` (R152). -/
def execClrblink (row col k : Nat) (s : State) : Host.Outcome State Fault Refusal :=
  writeBlink row col k 0#1 s

/-- `SETDIGBLINK row, col0, dp, k` (R153). -/
def execSetdigblink (row col0 : Nat) (dp : Bool) (k : Nat) (s : State) : Host.Outcome State Fault Refusal :=
  writeDigitBlink row col0 dp k 0x7F#7 1#1 s

/-- `CLRDIGBLINK row, col0, dp, k` (R154). -/
def execClrdigblink (row col0 : Nat) (dp : Bool) (k : Nat) (s : State) : Host.Outcome State Fault Refusal :=
  writeDigitBlink row col0 dp k 0x00#7 0#1 s

/-- `QRYBLINK row, col, k`: on, off or invalid (R155). -/
def execQryblink (row col k : Nat) (s : State) : Host.Outcome State Fault Refusal :=
  if ValidPos row col ∧ ValidClass k then finish (bitResult (memRead (s.maskOf k) row col 1)) s
  else raiseInvalidParam INVALID s

end Sys2Proof.Machine
end

