-- ==== Sys2Proof/Machine/Digit.lean ====
section
/-! DEFINITION. The digit write SETDIGIT (spec 42_digit_ops.md). -/

namespace Sys2Proof.Machine

/-- `SETDIGIT row, col0, glyph, dp`: the span becomes `dp ++ FontLookup(glyph)`; rejected only when the
span is out of range, never because of the glyph (R140, R123). -/
def execSetdigit (row col0 glyph : Nat) (dp : Bool) (s : State) : Host.Outcome State Fault Refusal :=
  if ValidSpan row col0 then
    finish OK (s.withL (memWrite s.L row col0 (digitByte glyph dp)))
  else raiseInvalidParam FAIL s

end Sys2Proof.Machine
end

