-- ==== Sys2Proof/Machine/Led.lean ====
section
/-! DEFINITION. The single-LED operations SETLED, CLRLED, TGLLED, ISLEDON (spec 41_led_ops.md). -/

namespace Sys2Proof.Machine

/-- The shared form of the three writes: reject, or write the position's bit as a function of itself
(R130, R131, R132, R134). -/
def writeLed (row col : Nat) (f : BitVec 1 → BitVec 1) (s : State) : Host.Outcome State Fault Refusal :=
  if ValidPos row col then
    finish OK (s.withL (memWrite s.L row col (f (memRead s.L row col 1))))
  else raiseInvalidParam FAIL s

/-- `SETLED row, col` (R130). -/
def execSetled (row col : Nat) (s : State) : Host.Outcome State Fault Refusal :=
  writeLed row col (fun _ => 1#1) s

/-- `CLRLED row, col` (R131). -/
def execClrled (row col : Nat) (s : State) : Host.Outcome State Fault Refusal :=
  writeLed row col (fun _ => 0#1) s

/-- `TGLLED row, col`: the bit becomes `1 ^` itself (R132). -/
def execTglled (row col : Nat) (s : State) : Host.Outcome State Fault Refusal :=
  writeLed row col (fun b => 1#1 ^^^ b) s

/-- `ISLEDON row, col`: the bit of `L`, and false, not an error, out of range (R133). -/
def execIsledon (row col : Nat) (s : State) : Host.Outcome State Fault Refusal :=
  if ValidPos row col then finish (bitResult (memRead s.L row col 1)) s
  else finish FAIL s

end Sys2Proof.Machine
end

