-- ==== Sys2Proof/Machine/Flags.lean ====
section
/-! DEFINITION. The only flag-like state is the phase flag of each class (R28): the any-blink test (R171)
and the phase update (R172). There are no condition codes. -/

namespace Sys2Proof.Machine

open Sys2Proof.Config

/-- `AnyBlinkActive()`: some bit of some mask is set (R171). It looks at the masks alone. -/
def anyBlinkActive (M : Vector Grid NCLASS) : Bool :=
  M.toList.any fun G => G.toList.any fun w => decide (w ≠ 0#32)

/-- The other phase: `1 - PH[k]` (R172). -/
def flipPhase : Phase → Phase
  | .bright => .dark
  | .dark => .bright

/-- Elapsed time `(now - T0[k]) mod 2^TW` (R14, R172). -/
def elapsed (now t0 : Time) : Time := now - t0

/-- One class's part of `PhaseUpdate(now)`: it flips when the elapsed time is strictly greater than its
current duration, unsigned, and else keeps all three registers (R172). -/
def updateClass (now : Time) (k : ClassIx) (c : ClassPhase) : ClassPhase :=
  if c.dur < elapsed now c.t0 then
    { ph := flipPhase c.ph, t0 := now, dur := durationOf k (flipPhase c.ph) }
  else c

/-- Class k's phase triple. -/
def State.classPhase (s : State) (k : ClassIx) : ClassPhase :=
  { ph := s.PH[k], t0 := s.T0[k], dur := s.DUR[k] }

/-- `PhaseUpdate(now)`: every class independently, by the one sample (R36, R172). -/
def phaseUpdate (now : Time) (s : State) : State :=
  let c (k : ClassIx) : ClassPhase := updateClass now k (s.classPhase k)
  { s with
    PH := Vector.ofFn fun k => (c k).ph
    T0 := Vector.ofFn fun k => (c k).t0
    DUR := Vector.ofFn fun k => (c k).dur }

end Sys2Proof.Machine
end

