-- ==== Sys2Proof/Machine/Lines.lean ====
section
/-! DEFINITION. The serializer's line events (R200 to R206), what one event does to the line register (R13)
and to the reference sink (R211), and what a sink observes of them (R214). -/

namespace Sys2Proof.Machine

open Sys2Proof.Config

/-- The line register with one line at a level (R13). -/
def Pins.write (p : Pins) : Line → Bool → Pins
  | .clk, v => { p with clk := v }
  | .data, v => { p with data := v }
  | .stb, v => { p with stb := v }
  | .oe, v => { p with oe := v }

/-- What one event does to the line register: a delay changes no state (R13). -/
def pinStep (p : Pins) : LineEvent → Pins
  | .pinWrite l v => p.write l v
  | .delayUs => p

/-- What one event does to the reference sink, given the levels before it (R211): a rising clock edge
shifts DATA in (and through an open latch), a strobe write of 1 loads the latch. -/
def sinkStep (p : Pins) (k : Sink) : LineEvent → Sink
  | .pinWrite .clk true =>
    if p.clk then k
    else
      let sr : Frame := (k.SR <<< 1) ||| (BitVec.ofBool p.data).setWidth 40
      { SR := sr, LATCH := if p.stb then sr else k.LATCH }
  | .pinWrite .stb true => { k with LATCH := k.SR }
  | .pinWrite _ _ => k
  | .delayUs => k

/-- One line event on the wires. -/
def drive (w : Wires) (e : LineEvent) : Wires :=
  { PIN := pinStep w.PIN e, sink := sinkStep w.PIN w.sink e }

/-- A sequence of line events on the wires, in order (R74). -/
def driveAll (w : Wires) (ev : List LineEvent) : Wires := ev.foldl drive w

/-- `SendBit(b)` (R205). -/
def sendBit (b : Bool) : List LineEvent :=
  [.pinWrite .data b, .pinWrite .clk true, .delayUs, .pinWrite .clk false, .delayUs]

/-- The low n bits of a frame, most significant first: bit n-1 down to bit 0 (R202). -/
def bitsDown (f : Frame) : Nat → List Bool
  | 0 => []
  | n + 1 => f.getLsbD n :: bitsDown f n

/-- The row frame `P[r] ++ ROWSEL(r)` (R202, R203). -/
def rowFrame (P : Grid) (r : Nat) : Frame := rowOf P r ++ ROWSEL r

/-- `SendRow(r)` for a given frame: strobe low, 40 bits, strobe high (R202). -/
def sendRow (f : Frame) : List LineEvent :=
  .pinWrite .stb false :: ((bitsDown f FRAME_W).flatMap sendBit ++ [.pinWrite .stb true])

/-- `Transmit()`: the line events of one refresh, row 0 first, every row (R200, R201). -/
def transmitEvents (P : Grid) : List LineEvent :=
  (List.range ROWS).flatMap fun r => sendRow (rowFrame P r)

/-- The wires after `Transmit()` of the state's `P` (R200). -/
def transmitted (s : State) : Wires :=
  driveAll { PIN := s.PIN, sink := s.sink } (transmitEvents s.P)

/-- `Transmit()` on the state: reads `P`, drives the lines (R200). -/
def transmit (s : State) : State :=
  { s with PIN := (transmitted s).PIN, sink := (transmitted s).sink }

/-- What a sink observes of one event, given the levels before it (R205, R214): a write of an unchanged
level and a delay are not observed. -/
def observe (p : Pins) : LineEvent → List LineObs
  | .pinWrite .clk true => if p.clk then [] else [.bit p.data p.stb]
  | .pinWrite .stb v => if p.stb = v then [] else [.strobe v]
  | .pinWrite _ _ => []
  | .delayUs => []

/-- The record a sink makes of a sequence of events (R214). -/
def record (p : Pins) : List LineEvent → List LineObs
  | [] => []
  | e :: es => observe p e ++ record (pinStep p e) es

/-- The least number of microseconds a sequence of events takes: its delays (R206, R208). -/
def minDurationUs : List LineEvent → Nat
  | [] => 0
  | .delayUs :: es => T_PW_US + minDurationUs es
  | .pinWrite _ _ :: es => minDurationUs es

end Sys2Proof.Machine
end

