-- ==== Sys2Proof/Machine/Refresh.lean ====
section
/-! DEFINITION. REFRESH: phase update, composition, transmission (spec 44_refresh_blink_scheduler.md,
45_serializer.md). -/

namespace Sys2Proof.Machine

open Sys2Proof.Config

/-- Row r of the logical grid with the members of every dark class masked off, classes ascending (R173). -/
def maskDark (s : State) (r : Fin ROWS) : Row :=
  (List.finRange NCLASS).foldl
    (fun w k => if s.PH[k] = Phase.dark then w &&& ~~~(s.M[k])[r] else w) s.L[r]

/-- `Compose(any)`: every row of `P` is written (R173). -/
def compose (any : Bool) (s : State) : State :=
  { s with P := Vector.ofFn fun r => if any then maskDark s r else s.L[r] }

/-- Steps 1 and 2 of `REFRESH`: the phase update by the one time sample, run only when any blink is active
(R170, R172, R178). -/
def afterPhases (s : State) : State :=
  if anyBlinkActive s.M then phaseUpdate s.NOW s else s

/-- Step 3 of `REFRESH`: the composition, by the phases the update left (R173). -/
def afterCompose (s : State) : State := compose (anyBlinkActive s.M) (afterPhases s)

/-- Step 4 of `REFRESH`: the transmission, which starts when every row of `P` is written (R174, R200), and
the result OK. -/
def refreshed (s : State) : State :=
  (transmit (afterCompose s)).complete OK (transmitEvents (afterCompose s).P)

/-- `REFRESH`: always completes (R170). -/
def execRefresh (s : State) : Host.Outcome State Fault Refusal := .next (refreshed s)

end Sys2Proof.Machine
end

