-- ==== Sys2Proof/Machine/Dispatch.lean ====
section
/-! DEFINITION. One arm per operation of the opcode table (R92). -/

namespace Sys2Proof.Machine

def exec (i : Instr) (s : State) : Host.Outcome State Fault Refusal :=
  match i with
  | .setled row col => Sys2Proof.Machine.execSetled row col s
  | .clrled row col => Sys2Proof.Machine.execClrled row col s
  | .tglled row col => Sys2Proof.Machine.execTglled row col s
  | .isledon row col => Sys2Proof.Machine.execIsledon row col s
  | .setdigit row col0 glyph dp => Sys2Proof.Machine.execSetdigit row col0 glyph dp s
  | .setblink row col k => Sys2Proof.Machine.execSetblink row col k s
  | .clrblink row col k => Sys2Proof.Machine.execClrblink row col k s
  | .setdigblink row col0 dp k => Sys2Proof.Machine.execSetdigblink row col0 dp k s
  | .clrdigblink row col0 dp k => Sys2Proof.Machine.execClrdigblink row col0 dp k s
  | .qryblink row col k => Sys2Proof.Machine.execQryblink row col k s
  | .refresh => Sys2Proof.Machine.execRefresh s

end Sys2Proof.Machine
end

