-- ==== Sys2Proof/Machine/Fetch.lean ====
section
/-! DEFINITION. Accepting the next outside move: a command word from the command port (R34), or time
passing (R31). -/

namespace Sys2Proof.Machine

/-- A command word: the operation it spells, or `IllegalCommand`, recognised before any operand is looked
at (R96, R236). -/
def runWord (w : Word) (s : State) : Host.Outcome State Fault Refusal :=
  match decode w with
  | .ok i => exec i s
  | .error _ => raiseIllegalCommand s

/-- The counter advances by d milliseconds, modulo 2^TW (R31). The block does nothing. -/
def passTime (d : Time) (s : State) : Host.Outcome State Fault Refusal :=
  .next { s with NOW := s.NOW + d }

/-- One outside move. -/
def runInput (x : Input) (s : State) : Host.Outcome State Fault Refusal :=
  match x with
  | .issue w => runWord w s
  | .tick d => passTime d s

/-- The state with the word put at the command port before every other move still to come. -/
def offerWord (w : Word) (s : State) : State := { s with inputs := .issue w :: s.inputs }

end Sys2Proof.Machine
end

