-- ==== Sys2Proof/Machine/Step.lean ====
section
/-! DEFINITION. One step of the machine: the next outside move, oldest first, taken whole (R10, R34, R71);
with none offered the block is idle and nothing happens (R261). -/

namespace Sys2Proof.Machine

/-- One step (R10): total, it always answers a next state (R11). -/
def step (s : State) : Host.Outcome State Fault Refusal :=
  match s.inputs with
  | [] => .next s
  | x :: rest => runInput x { s with inputs := rest }

/-- The command word w (bits above `nbits` zero) stands at the command port, so that the very next step
runs it. Log entry 2. -/
def State.withFetchWord (s : State) (nbits w : Nat) : State := offerWord (tableWord nbits w) s

end Sys2Proof.Machine
end

