-- ==== Sys2Proof/Safety.lean ====
section
/-! DEFINITION. The terms in which claims about runs are stated: which operations are performed and which
rejected (R231), the invariant of every step, and what the panel shows (R213). -/

namespace Sys2Proof.Machine

open Sys2Proof.Config

/-- The operation is not an `InvalidParam`: the complement of the table of R231. -/
def Accepted : Instr → Prop
  | .setled row col => ValidPos row col
  | .clrled row col => ValidPos row col
  | .tglled row col => ValidPos row col
  | .isledon row col => ValidPos row col
  | .setdigit row col0 _ _ => ValidSpan row col0
  | .setblink row col k => ValidPos row col ∧ ValidClass k
  | .clrblink row col k => ValidPos row col ∧ ValidClass k
  | .setdigblink row col0 _ k => ValidSpan row col0 ∧ ValidClass k
  | .clrdigblink row col0 _ k => ValidSpan row col0 ∧ ValidClass k
  | .qryblink row col k => ValidPos row col ∧ ValidClass k
  | .refresh => True

/-- The result of the operation when it is an `InvalidParam` (R231); `REFRESH` never is. -/
def failureValue : Instr → Byte
  | .setled _ _ => FAIL
  | .clrled _ _ => FAIL
  | .tglled _ _ => FAIL
  | .isledon _ _ => FAIL
  | .setdigit _ _ _ _ => FAIL
  | .setblink _ _ _ => FAIL
  | .clrblink _ _ _ => FAIL
  | .setdigblink _ _ _ _ => FAIL
  | .clrdigblink _ _ _ _ => FAIL
  | .qryblink _ _ _ => INVALID
  | .refresh => FAIL

/-- The state after a command that writes no state: only the two ports change (R35, R37, R232). -/
def untouched (s : State) (r : Byte) : State := { s with result := some r, events := [] }

/-- What holds at reset and is kept by every step. -/
structure Inv (s : State) : Prop where
  /-- `DUR[k]` is the configured length of the phase in progress (R25). -/
  duration_matches_phase : ∀ k : ClassIx, s.DUR[k] = durationOf k s.PH[k]
  /-- The clock line is low between operations (R205, R209). -/
  clock_low : s.PIN.clk = false
  /-- The line port holds nothing or one whole refresh of `P`: no refresh is half-sent (R29, R74). -/
  events_whole : s.events = [] ∨ s.events = transmitEvents s.P
  /-- STB low: no refresh has run, so `P` and the phases are as at reset (R21, R23, R38). -/
  before_first_refresh :
    s.PIN.stb = false → s.P = emptyGrid ∧ (∀ k : ClassIx, s.PH[k] = Phase.bright) ∧ s.PIN.data = false
  /-- STB high: a refresh has run, and the chain and DATA hold the last row's frame (R209, R212). -/
  after_refresh :
    s.PIN.stb = true →
      s.sink.SR = rowFrame s.P 7 ∧ s.sink.LATCH = rowFrame s.P 7 ∧ s.PIN.data = (ROWSEL 7).getLsbD 0
  /-- The result port holds nothing or one of the four codes (R94). -/
  result_legal : s.result = none ∨ ∃ r ∈ [OK, FAIL, INVALID, ILLEGAL], s.result = some r

/-- LED (r, c) is lit now: its row's select bit and its column's bit are latched and the chain's outputs
are enabled (R213, on the reference sink). The enabling level is a constant with no value. -/
def shows (s : State) (r c : Nat) : Bool :=
  decide (r < ROWS) && decide (c < COLS)
    && (s.sink.LATCH.extractLsb' 0 8 &&& ROWSEL r != 0#8)
    && s.sink.LATCH.getLsbD (8 + c)
    && (s.PIN.oe == OE_ENABLE)

end Sys2Proof.Machine
end

