-- ==== Sys2Proof/Certificates/Slice0/Obligations.lean ====
section
/-! DEFINITION. The statements for the provers. Result codes, the font, the row-select byte and the phase
durations are named, not numbered, wherever a rule does not turn on the number (D6, D9, D16). -/

open Sys2Proof Sys2Proof.Machine Sys2Proof.Config

/-- The reset table (R38), for EVERY value of what it leaves open: the timestamps, the OE level, the
counter and the chain. Bright phases with bright durations and low lines are the spec's decisions D11 and
D20. That `State.reset` is one of these states is the second clause; which one is the model's choice (log
entries 4 to 7) and nothing here rests on it. -/
def Obligations.ResetLeavesGridsDarkAndPhasesBright : Prop :=
  (∀ (t0 : Vector Time NCLASS) (oe : Bool) (now : Time) (chain : Sink),
    let s := State.resetWith t0 oe now chain
    (∀ r c, bitOf s.L r c = false) ∧ (∀ r c, bitOf s.P r c = false)
      ∧ (∀ (k : ClassIx) r c, bitOf s.M[k] r c = false)
      ∧ (∀ k : ClassIx, s.PH[k] = Phase.bright ∧ s.DUR[k] = BRIGHT_MS[k] ∧ s.T0[k] = t0[k])
      ∧ s.PIN.clk = false ∧ s.PIN.data = false ∧ s.PIN.stb = false ∧ s.PIN.oe = oe
      ∧ s.NOW = now ∧ s.sink = chain
      ∧ s.result = none ∧ s.events = [] ∧ s.inputs = [])
  ∧ ∃ t0 oe now chain, State.reset = State.resetWith t0 oe now chain

/-- The invariant holds after reset, whatever the open reset values are. The values it asks for there are
the spec's decisions D11 and D20; its clauses on the events and the chain are of log entries 3 and 7. -/
def Obligations.ResetMeetsTheStepInvariant : Prop :=
  ∀ (t0 : Vector Time NCLASS) (oe : Bool) (now : Time) (chain : Sink), Inv (State.resetWith t0 oe now chain)

/-- Every step keeps the invariant: durations match phases (R25), the clock rests low (R205, R209), no
refresh is half-sent (R29), before the first refresh the physical grid and phases are as at reset (R21,
R23; D11, D20), after it the chain and DATA hold the last row's frame (R209, R212), results are legal (R94,
the codes D6). The clauses of R25, R205, R209 and R212 are inferences the spec marks as its own. That SR and
LATCH hold the frame rests on the reference sink (log entry 7, PRESUMED; U4), and that State holds the
events of the last command on log entry 3 (DESIGN CHOICE). -/
def Obligations.EveryStepKeepsTheStepInvariant : Prop :=
  ∀ s t : State, Inv s → step s = .next t → Inv t

/-- Decoding the word of a well-formed instruction gives the instruction back, every operand at every value
its field admits. -/
def Obligations.DecodeOfEncodeGivesTheInstructionBack : Prop :=
  ∀ i : Instr, i.WellFormed → decode (encode i) = .ok i

/-- A word that decodes spells a well-formed instruction and is the one word that spells it: no bit of a
legal word is ignored. -/
def Obligations.EncodeOfDecodeGivesTheWordBack : Prop :=
  ∀ (w : Word) (i : Instr), decode w = .ok i → i.WellFormed ∧ encode i = w

/-- The field-by-field decoder and the mask and match table agree: a word spells the operation of a row if
and only if it matches the row, and no word matches two rows (R93; the table is the spec's decisions D2 and
D4, its disjointness the spec's inference). -/
def Obligations.WordSpellsOperationIffItMatchesItsRow : Prop :=
  (∀ (w : Word) (row : OpRow), row ∈ opTable →
    ((∃ i, decode w = .ok i ∧ i.mnemonic = row.mnemonic) ↔ w &&& row.mask = row.value))
  ∧ ∀ (w : Word) (a b : OpRow), a ∈ opTable → b ∈ opTable →
      w &&& a.mask = a.value → w &&& b.mask = b.value → a = b

/-- Which words spell no operation, in the fields of the word (R96; the spec's decision D4). -/
def Obligations.IllegalWordsAreExactlyTheReservedOnes : Prop :=
  ∀ w : Word, (∃ e, decode w = .error e) ↔
    (opField w = 0x0 ∨ 0xC ≤ opField w
      ∨ rsvField w ≠ 0
      ∨ (flagField w = true ∧ opField w ≠ 0x5 ∧ opField w ≠ 0x8 ∧ opField w ≠ 0x9)
      ∨ (argField w ≠ 0 ∧ (opField w = 0x1 ∨ opField w = 0x2 ∨ opField w = 0x3 ∨ opField w = 0x4 ∨ opField w = 0xB))
      ∨ (opField w = 0xB ∧ (rowField w ≠ 0 ∨ colField w ≠ 0)))

/-- Words written out from the encodings of R93 decode to the operations they stand for: one of each
operation, and one reserved word. -/
def Obligations.WrittenOutWordsDecodeAsSpelled : Prop :=
  decode 0b00010000000001110001111100000000#32 = .ok (.setled 7 31)
    ∧ decode 0b00100000000000110001000000000000#32 = .ok (.clrled 3 16)
    ∧ decode 0b00110000000001010000100000000000#32 = .ok (.tglled 5 8)
    ∧ decode 0b01000000000000100000100100000000#32 = .ok (.isledon 2 9)
    ∧ decode 0b01010001000000100000100000110111#32 = .ok (.setdigit 2 8 0x37 true)
    ∧ decode 0b01100000000000000001111100000001#32 = .ok (.setblink 0 31 1)
    ∧ decode 0b01110000000000000010000000000001#32 = .ok (.clrblink 0 32 1)
    ∧ decode 0b10000001000000000001100000000001#32 = .ok (.setdigblink 0 24 true 1)
    ∧ decode 0b10010000000000000001100000000001#32 = .ok (.clrdigblink 0 24 false 1)
    ∧ decode 0b10100000000010000000000000000001#32 = .ok (.qryblink 8 0 1)
    ∧ decode 0b10110000000000000000000000000000#32 = .ok .refresh
    ∧ decode 0b11000000000000000000000000000000#32 = .error .reservedOp

/-- A step takes the next outside move, oldest first, and nothing else: a command word that spells an
operation runs it on the state with that move taken; one that spells none gives `ILLEGAL` and writes no
state (R96, R234); time passing moves the counter alone (R31); with no move offered nothing happens. How
moves are held is the model's choice (log entry 1). -/
def Obligations.StepRunsTheNextOutsideMove : Prop :=
  ∀ (s : State) (rest : List Input),
    (∀ w i, s.inputs = .issue w :: rest → decode w = .ok i → step s = exec i { s with inputs := rest })
      ∧ (∀ w e, s.inputs = .issue w :: rest → decode w = .error e →
          step s = .next { s with inputs := rest, result := some ILLEGAL, events := [] })
      ∧ (∀ d, s.inputs = .tick d :: rest → step s = .next { s with inputs := rest, NOW := s.NOW + d })
      ∧ (s.inputs = [] → step s = .next s)

/-- The machine never stops: every state has a next state (R11: total, never faults, hangs or refuses), and
a command of every kind completes from every state. -/
def Obligations.EveryStepAnswersANextState : Prop :=
  (∀ s : State, ∃ t, step s = .next t) ∧ ∀ (i : Instr) (s : State), ∃ t, exec i s = .next t

/-- A rejected operation (one that R231's table rejects) writes no state whatever (R232): the result is the
operation's failure value, no line event is emitted, and nothing else of the state changes. -/
def Obligations.RejectedOperationWritesNoState : Prop :=
  ∀ (i : Instr) (s : State), ¬Accepted i → exec i s = .next (untouched s (failureValue i))

/-- SETLED, CLRLED and TGLLED at a valid position: performed with result OK; the one bit becomes 1, 0, or
its own opposite; every other bit of `L` and everything else is unchanged (41_led_ops.md). -/
def Obligations.SingleLedWritesSetClearOrToggleOneBit : Prop :=
  ∀ (s : State) (row col : Nat), ValidPos row col →
    (∃ t, exec (.setled row col) s = .next t ∧ t = { s with L := t.L, result := some OK, events := [] }
      ∧ ∀ r c, bitOf t.L r c = if r = row ∧ c = col then true else bitOf s.L r c)
    ∧ (∃ t, exec (.clrled row col) s = .next t ∧ t = { s with L := t.L, result := some OK, events := [] }
      ∧ ∀ r c, bitOf t.L r c = if r = row ∧ c = col then false else bitOf s.L r c)
    ∧ (∃ t, exec (.tglled row col) s = .next t ∧ t = { s with L := t.L, result := some OK, events := [] }
      ∧ ∀ r c, bitOf t.L r c = if r = row ∧ c = col then !bitOf s.L r c else bitOf s.L r c)

/-- ISLEDON answers ON or OFF by the bit of `L`, OFF out of range, and writes no state on either path (R133,
41_led_ops.md). -/
def Obligations.IsledonAnswersTheLogicalBit : Prop :=
  ∀ (s : State) (row col : Nat),
    (ValidPos row col → exec (.isledon row col) s = .next (untouched s (if bitOf s.L row col then OK else FAIL)))
      ∧ (¬ValidPos row col → exec (.isledon row col) s = .next (untouched s FAIL))

/-- SETDIGIT on a valid span, for every glyph selector: performed with result OK; span bits 0 to 6 become
the font pattern and bit 7 the decimal point, prior bits overwritten; every other bit of `L` and everything
else is unchanged (42_digit_ops.md). -/
def Obligations.SetdigitOverwritesExactlyItsSpan : Prop :=
  ∀ (s : State) (row col0 glyph : Nat) (dp : Bool), ValidSpan row col0 →
    ∃ t, exec (.setdigit row col0 glyph dp) s = .next t
      ∧ t = { s with L := t.L, result := some OK, events := [] }
      ∧ ∀ r c, bitOf t.L r c =
          if r = row ∧ col0 ≤ c ∧ c < col0 + 7 then (fontLookup glyph).getLsbD (c - col0)
          else if r = row ∧ c = col0 + 7 then dp
          else bitOf s.L r c

/-- After a performed SETDIGIT the span reads back as `font(glyph) | (dp << 7)`, as one byte and bit by bit
through ISLEDON (20_memory.md sections 2 and 3). -/
def Obligations.DigitReadsBackThroughIsledon : Prop :=
  ∀ (s : State) (row col0 glyph : Nat) (dp : Bool), ValidSpan row col0 →
    ∃ t, exec (.setdigit row col0 glyph dp) s = .next t
      ∧ memRead t.L row col0 8
          = (fontLookup glyph).setWidth 8 ||| ((BitVec.ofBool dp).setWidth 8 <<< 7)
      ∧ ∀ i, i < 8 → exec (.isledon row (col0 + i)) t
          = .next (untouched t (if (memRead t.L row col0 8).getLsbD i then OK else FAIL))

/-- SETBLINK and CLRBLINK at a valid position and class: performed with result OK; the one membership bit
of the one class named becomes 1 or 0; every other membership bit of either class, and everything else, is
unchanged (43_blink_ops.md). -/
def Obligations.BlinkWritesOneBitOfOneClass : Prop :=
  ∀ (s : State) (row col k : Nat), ValidPos row col → ValidClass k →
    (∃ t, exec (.setblink row col k) s = .next t ∧ t = { s with M := t.M, result := some OK, events := [] }
      ∧ ∀ j r c, bitOf (t.maskOf j) r c
          = if j = k ∧ r = row ∧ c = col then true else bitOf (s.maskOf j) r c)
    ∧ (∃ t, exec (.clrblink row col k) s = .next t ∧ t = { s with M := t.M, result := some OK, events := [] }
      ∧ ∀ j r c, bitOf (t.maskOf j) r c
          = if j = k ∧ r = row ∧ c = col then false else bitOf (s.maskOf j) r c)

/-- SETDIGBLINK and CLRDIGBLINK on a valid span and class: performed with result OK; the seven segment
columns, and the decimal-point column exactly when the flag is set, join or leave the class; with the flag
clear the point's membership stays as it was (the spec's decision D21); every other membership bit and
everything else is unchanged (43_blink_ops.md). -/
def Obligations.DigitBlinkWritesSegmentsAndFlaggedPoint : Prop :=
  ∀ (s : State) (row col0 : Nat) (dp : Bool) (k : Nat), ValidSpan row col0 → ValidClass k →
    (∃ t, exec (.setdigblink row col0 dp k) s = .next t
      ∧ t = { s with M := t.M, result := some OK, events := [] }
      ∧ ∀ j r c, bitOf (t.maskOf j) r c
          = if j = k ∧ r = row ∧ col0 ≤ c ∧ (c < col0 + 7 ∨ (dp = true ∧ c = col0 + 7)) then true
            else bitOf (s.maskOf j) r c)
    ∧ (∃ t, exec (.clrdigblink row col0 dp k) s = .next t
      ∧ t = { s with M := t.M, result := some OK, events := [] }
      ∧ ∀ j r c, bitOf (t.maskOf j) r c
          = if j = k ∧ r = row ∧ col0 ≤ c ∧ (c < col0 + 7 ∨ (dp = true ∧ c = col0 + 7)) then false
            else bitOf (s.maskOf j) r c)

/-- QRYBLINK answers member, non-member or INVALID, and writes no state on any path (43_blink_ops.md). -/
def Obligations.QryblinkAnswersThreeWays : Prop :=
  ∀ (s : State) (row col k : Nat),
    (ValidPos row col → ValidClass k →
        exec (.qryblink row col k) s = .next (untouched s (if bitOf (s.maskOf k) row col then OK else FAIL)))
      ∧ (¬(ValidPos row col ∧ ValidClass k) → exec (.qryblink row col k) s = .next (untouched s INVALID))

/-- The lookup policy on every selector: an enumerated code gives its pattern, an ASCII digit (general
knowledge, U17) the digit's, every other selector the ERROR pattern (40_font_table.md). -/
def Obligations.FontLookupFollowsItsPolicy : Prop :=
  (∀ c : Fin NGLYPH, fontLookup c = FONT[c])
    ∧ (∀ d : Fin 10, fontLookup (0x30 + d) = FONT[(⟨d.val, Nat.lt_trans d.isLt (by decide)⟩ : Fin NGLYPH)])
    ∧ ∀ sel : Nat, NGLYPH ≤ sel → (sel < 0x30 ∨ 0x39 < sel) → fontLookup sel = FONT[G_ERROR]

/-- Some blink is active if and only if some bit of some mask is set; the masks alone decide (R171). -/
def Obligations.AnyBlinkIsActiveIffSomeMaskBitIsSet : Prop :=
  ∀ M : Vector Grid NCLASS,
    anyBlinkActive M = true ↔ ∃ (k : ClassIx) (r c : Nat), r < ROWS ∧ c < COLS ∧ bitOf M[k] r c = true

/-- REFRESH completes from every state with result OK, whatever the sample, emits one whole transmission of
the new `P`, writes nothing but the phase registers, `P`, the lines and the chain, and updates each class by
itself: a class flips exactly when blink is active and its elapsed time (modulo 2^TW, D12; one sample, D13)
is strictly greater than its current duration; a class that does not flip keeps all three registers. -/
def Obligations.RefreshFlipsExactlyTheExpiredClasses : Prop :=
  ∀ s : State, ∃ t, exec .refresh s = .next t
    ∧ t = { s with P := t.P, PH := t.PH, T0 := t.T0, DUR := t.DUR, PIN := t.PIN, sink := t.sink,
                   result := some OK, events := transmitEvents t.P }
    ∧ ∀ k : ClassIx,
        ((anyBlinkActive s.M = true ∧ s.DUR[k] < s.NOW - s.T0[k]) →
          t.T0[k] = s.NOW
            ∧ (s.PH[k] = Phase.bright → t.PH[k] = Phase.dark ∧ t.DUR[k] = DARK_MS[k])
            ∧ (s.PH[k] = Phase.dark → t.PH[k] = Phase.bright ∧ t.DUR[k] = BRIGHT_MS[k]))
        ∧ (¬(anyBlinkActive s.M = true ∧ s.DUR[k] < s.NOW - s.T0[k]) →
          t.T0[k] = s.T0[k] ∧ t.PH[k] = s.PH[k] ∧ t.DUR[k] = s.DUR[k])

/-- After REFRESH every bit of the physical grid is the logical bit, darkened exactly when some class it is
a member of is dark by the phases this refresh left (the per-position form, an inference of the spec). -/
def Obligations.PhysicalBitIsLogicalBitLessDarkMembers : Prop :=
  ∀ s : State, ∃ t, exec .refresh s = .next t
    ∧ ∀ r c, bitOf t.P r c = true ↔
        (bitOf s.L r c = true ∧ ¬∃ k : ClassIx, bitOf s.M[k] r c = true ∧ t.PH[k] = Phase.dark)

/-- No-blink passthrough (R175): with no member in any class, at whatever time, the physical grid equals
the logical grid and no phase register is written, even with classes left dark. -/
def Obligations.NoMemberMeansPhysicalEqualsLogical : Prop :=
  ∀ (s : State) (now : Time), (∀ (k : ClassIx) (r c : Nat), bitOf s.M[k] r c = false) →
    ∃ t, exec .refresh { s with NOW := now } = .next t
      ∧ t.P = s.L ∧ t.PH = s.PH ∧ t.T0 = s.T0 ∧ t.DUR = s.DUR

/-- The classes do not interfere: class k's registers after a refresh depend on class k's registers, the
sample and the any-blink test alone; an LED outside a class shows the same whatever that class's phase; an
LED in both is dark when either is (44_refresh_blink_scheduler.md section 5). -/
def Obligations.SpeedClassesDoNotInterfere : Prop :=
  (∀ (s s' t t' : State) (k : ClassIx), exec .refresh s = .next t → exec .refresh s' = .next t' →
    s.NOW = s'.NOW → anyBlinkActive s.M = anyBlinkActive s'.M → s.classPhase k = s'.classPhase k →
    t.classPhase k = t'.classPhase k)
  ∧ (∀ (s s' t t' : State) (k j : ClassIx) (r c : Nat), k ≠ j →
    exec .refresh s = .next t → exec .refresh s' = .next t' →
    s.L = s'.L → s.M = s'.M → t.PH[k] = t'.PH[k] → bitOf s.M[j] r c = false →
    bitOf t.P r c = bitOf t'.P r c)
  ∧ ∀ (s t : State) (r c : Nat), exec .refresh s = .next t →
    bitOf s.M[NORMAL] r c = true → bitOf s.M[SLOW] r c = true →
    (bitOf t.P r c = true ↔ bitOf s.L r c = true ∧ t.PH[NORMAL] = Phase.bright ∧ t.PH[SLOW] = Phase.bright)

/-- Blink-phase toggling: a lit member of one class alone, that class bright since `now` with its bright
duration, is on at once, still on after exactly that duration, off one millisecond later, and on again one
millisecond after the dark duration; across a wrap of the counter too (modular time is D12). -/
def Obligations.LoneMemberBlinksOnSchedule : Prop :=
  ∀ (s : State) (k : ClassIx) (r c : Nat),
    bitOf s.L r c = true → bitOf s.M[k] r c = true → (∀ j : ClassIx, j ≠ k → bitOf s.M[j] r c = false) →
    s.PH[k] = Phase.bright → s.DUR[k] = BRIGHT_MS[k] → s.T0[k] = s.NOW →
    ∃ a b d e, exec .refresh s = .next a ∧ bitOf a.P r c = true
      ∧ exec .refresh { a with NOW := s.NOW + BRIGHT_MS[k] } = .next b ∧ bitOf b.P r c = true
      ∧ exec .refresh { b with NOW := s.NOW + BRIGHT_MS[k] + 1#32 } = .next d ∧ bitOf d.P r c = false
      ∧ exec .refresh { d with NOW := s.NOW + BRIGHT_MS[k] + 1#32 + DARK_MS[k] + 1#32 } = .next e
      ∧ bitOf e.P r c = true

/-- What a sink records of one REFRESH (R202, R203, R214): for each row in ascending order, strobe low (seen
as an edge unless it is low already, which only row 0 can find), the 32 columns from 31 down to 0 and the 8
row-select bits from 7 down to 0, one clock pulse each with the strobe low, then strobe high. As one number
the frame is `(P[r] << 8) | ROWSEL(r)`. The clock rests low on entry by the step invariant. -/
def Obligations.RefreshSendsEveryRowMostSignificantBitFirst : Prop :=
  (∀ (P : Grid) (r : Nat),
    rowFrame P r = ((rowOf P r).setWidth 40 <<< 8) ||| (ROWSEL r).setWidth 40)
  ∧ ∀ s : State, s.PIN.clk = false → ∃ t, exec .refresh s = .next t
    ∧ record s.PIN t.events
        = (List.range ROWS).flatMap fun r =>
            (if r = 0 ∧ s.PIN.stb = false then [] else [LineObs.strobe false])
              ++ ((List.range COLS).map fun j => LineObs.bit (bitOf t.P r (31 - j)) false)
              ++ ((List.range 8).map fun j => LineObs.bit ((ROWSEL r).getLsbD (7 - j)) false)
              ++ [LineObs.strobe true]

/-- One row sent on the reference sink (log entry 7, PRESUMED; U4): from any content of the chain,
40 shifts flush it and the strobe latches the frame; the clock ends low, the strobe high, DATA at the last
bit, OE untouched. -/
def Obligations.SendingARowLatchesItsFrame : Prop :=
  ∀ (w : Wires) (f : Frame), w.PIN.clk = false →
    driveAll w (sendRow f)
      = { PIN := { clk := false, data := f.getLsbD 0, stb := true, oe := w.PIN.oe }, sink := { SR := f, LATCH := f } }

/-- Levels and chain after every REFRESH: clock low, strobe high, DATA at bit 0 of the last row's select
byte, OE as it was (D19), the chain and the latch at the last row's frame (R209, R212: inferences of the
spec; the chain is the reference sink of log entry 7, PRESUMED). -/
def Obligations.RefreshLeavesTheLastRowOnTheLines : Prop :=
  ∀ s : State, s.PIN.clk = false → ∃ t, exec .refresh s = .next t
    ∧ t.PIN = { clk := false, data := (ROWSEL 7).getLsbD 0, stb := true, oe := s.PIN.oe }
    ∧ t.sink = { SR := rowFrame t.P 7, LATCH := rowFrame t.P 7 }

/-- Counts of the writes of one REFRESH, whatever the data and whatever the levels before (R208, an
inference of the spec): 8 low-going and 8 high-going strobe writes, 320 clock writes high and 320 low, 320
data-line writes, no write to OE; its delays take at least 640 pulse widths, whatever the open width is.
A write counts also when it repeats the line's level, as the first strobe write after reset does: the spec
allows such a write to be omitted, and that the model's events keep it is log entry 15 (DEDUCED, unsafe for
exactly this statement). -/
def Obligations.RefreshEventCountsDoNotDependOnData : Prop :=
  ∀ s : State, ∃ t, exec .refresh s = .next t
    ∧ t.events.count (.pinWrite .stb false) = 8 ∧ t.events.count (.pinWrite .stb true) = 8
    ∧ t.events.count (.pinWrite .clk true) = 320 ∧ t.events.count (.pinWrite .clk false) = 320
    ∧ t.events.count (.pinWrite .data true) + t.events.count (.pinWrite .data false) = 320
    ∧ t.events.count (.pinWrite .oe true) = 0 ∧ t.events.count (.pinWrite .oe false) = 0
    ∧ minDurationUs t.events = 320 * 2 * T_PW_US

/-- What shows after a REFRESH, on the reference sink (log entry 7, PRESUMED; U4): row 7 alone can be lit, its LED c exactly when the
physical bit is set and the outputs are enabled; the enabling level has no value here. -/
def Obligations.PanelShowsTheLastRowAfterRefresh : Prop :=
  ∀ s : State, s.PIN.clk = false → ∃ t, exec .refresh s = .next t
    ∧ ∀ r c, shows t r c = true ↔ (r = 7 ∧ c < COLS ∧ bitOf t.P 7 c = true ∧ s.PIN.oe = OE_ENABLE)

/-- No operation but REFRESH touches the physical grid, a phase register, a line or the chain, or emits a
line event; so what shows (on the reference sink of log entry 7) does not follow a write until the next
REFRESH. That State holds the result and the events is log entry 3. -/
def Obligations.OnlyRefreshPublishes : Prop :=
  ∀ (i : Instr) (s t : State), i ≠ .refresh → exec i s = .next t →
    t = { s with L := t.L, M := t.M, result := t.result, events := [] }
      ∧ ∀ r c, shows t r c = shows s r c

/-- No operation writes the counter (R31), takes an outside move from the list of those to come, or changes
the output-enable level. The list of moves is the model's choice (log entry 1, DESIGN CHOICE), for commands
accepted only when idle (R34; D22); that the level is constant is the spec's decision D19 (R207; log entries
6 and 17). -/
def Obligations.OperationsNeverWriteCounterOrOutputEnable : Prop :=
  ∀ (i : Instr) (s t : State), exec i s = .next t →
    t.NOW = s.NOW ∧ t.inputs = s.inputs ∧ t.PIN.oe = s.PIN.oe

/-- `L` is written by no operation but SETLED, CLRLED, TGLLED and SETDIGIT, and `M` by none but SETBLINK,
CLRBLINK, SETDIGBLINK and CLRDIGBLINK. -/
def Obligations.LogicalGridAndMasksHaveTheirOwnWriters : Prop :=
  ∀ (i : Instr) (s t : State), exec i s = .next t →
    ((i.mnemonic ≠ "SETLED" ∧ i.mnemonic ≠ "CLRLED" ∧ i.mnemonic ≠ "TGLLED" ∧ i.mnemonic ≠ "SETDIGIT") → t.L = s.L)
      ∧ ((i.mnemonic ≠ "SETBLINK" ∧ i.mnemonic ≠ "CLRBLINK" ∧ i.mnemonic ≠ "SETDIGBLINK" ∧ i.mnemonic ≠ "CLRDIGBLINK")
          → t.M = s.M)

/-- The host cannot observe the physical grid, the phases, the lines, the chain or the time by any result:
two states with the same `L` and `M` answer every operation alike and keep the same `L` and `M`; and what
an operation does to `L` does not depend on `M`, nor the reverse. -/
def Obligations.ResultsRevealOnlyLogicalGridAndMasks : Prop :=
  (∀ (i : Instr) (s s' t t' : State), exec i s = .next t → exec i s' = .next t' → s.L = s'.L → s.M = s'.M →
    t.result = t'.result ∧ t.L = t'.L ∧ t.M = t'.M)
  ∧ (∀ (i : Instr) (s s' t t' : State), exec i s = .next t → exec i s' = .next t' → s.L = s'.L → t.L = t'.L)
  ∧ ∀ (i : Instr) (s s' t t' : State), exec i s = .next t → exec i s' = .next t' → s.M = s'.M → t.M = t'.M

/-- Side effects and idempotency (R68): the two queries write no state; seven operations done twice leave
exactly what they leave done once; TGLLED is undone by a second TGLLED and so is not idempotent; REFRESH
always emits line events and, later, may change the phase registers again. -/
def Obligations.QueriesAreSilentAndSevenOperationsIdempotent : Prop :=
  (∀ (s t : State) (row col k : Nat), exec (.isledon row col) s = .next t ∨ exec (.qryblink row col k) s = .next t →
    t = { s with result := t.result, events := [] })
  ∧ (∀ (i : Instr) (s t : State),
      (i.mnemonic = "SETLED" ∨ i.mnemonic = "CLRLED" ∨ i.mnemonic = "SETDIGIT" ∨ i.mnemonic = "SETBLINK"
        ∨ i.mnemonic = "CLRBLINK" ∨ i.mnemonic = "SETDIGBLINK" ∨ i.mnemonic = "CLRDIGBLINK") →
      exec i s = .next t → exec i t = .next t)
  ∧ (∀ (s : State) (row col : Nat), ValidPos row col →
      ∃ t u, exec (.tglled row col) s = .next t ∧ exec (.tglled row col) t = .next u
        ∧ u = untouched s OK ∧ u.L ≠ t.L)
  ∧ (∀ s t : State, exec .refresh s = .next t → t.events ≠ [])
  ∧ ∃ (s t u : State) (d : Time), exec .refresh s = .next t
      ∧ exec .refresh { t with NOW := t.NOW + d } = .next u
      ∧ u.PH ≠ t.PH ∧ u.T0 ≠ t.T0 ∧ u.DUR ≠ t.DUR
end

