-- ==== Sys2Proof/Laws/Decode.lean ====
section
/-! SUPPORT. The fields of a command word built by the encoder (R90). -/

namespace Sys2Proof

/-- Bit i of a command word, field by field (R90). -/
theorem getLsbD_commandWord (op : Nat) (f : Bool) (row col arg i : Nat) :
    (commandWord op f row col arg).getLsbD i =
      if i < 8 then (BitVec.ofNat 8 arg).getLsbD i
      else if i < 16 then (BitVec.ofNat 8 col).getLsbD (i - 8)
      else if i < 24 then (BitVec.ofNat 8 row).getLsbD (i - 16)
      else if i < 25 then (BitVec.ofBool f).getLsbD (i - 24)
      else if i < 28 then false
      else (BitVec.ofNat 4 op).getLsbD (i - 28) := by
  simp only [commandWord, BitVec.getLsbD_append]
  by_cases h8 : i < 8
  · rw [if_pos h8, if_pos h8]
  rw [if_neg h8, if_neg h8]
  by_cases h16 : i < 16
  · rw [if_pos (by omega), if_pos h16]
  rw [if_neg (by omega), if_neg h16]
  by_cases h24 : i < 24
  · rw [if_pos (by omega), if_pos h24, show i - 8 - 8 = i - 16 by omega]
  rw [if_neg (by omega), if_neg h24]
  by_cases h25 : i < 25
  · rw [if_pos (by omega), if_pos h25, show i - 8 - 8 - 8 = i - 24 by omega]
  rw [if_neg (by omega), if_neg h25]
  by_cases h28 : i < 28
  · rw [if_pos (by omega), if_pos h28]
    simp
  rw [if_neg (by omega), if_neg h28, show i - 8 - 8 - 8 - 1 - 3 = i - 28 by omega]

theorem opField_commandWord (op : Nat) (f : Bool) (row col arg : Nat) :
    opField (commandWord op f row col arg) = op % 16 := by
  have h : (commandWord op f row col arg).extractLsb' 28 4 = BitVec.ofNat 4 op := by
    apply BitVec.eq_of_getLsbD_eq
    intro i hi
    rw [BitVec.getLsbD_extractLsb', getLsbD_commandWord]
    simp [hi, show ¬28 + i < 8 by omega, show ¬28 + i < 16 by omega, show ¬28 + i < 24 by omega,
      show ¬28 + i < 25 by omega]
  rw [opField, h, BitVec.toNat_ofNat]

theorem rsvField_commandWord (op : Nat) (f : Bool) (row col arg : Nat) :
    rsvField (commandWord op f row col arg) = 0 := by
  have h : (commandWord op f row col arg).extractLsb' 25 3 = 0#3 := by
    apply BitVec.eq_of_getLsbD_eq
    intro i hi
    rw [BitVec.getLsbD_extractLsb', getLsbD_commandWord]
    simp [hi, show ¬25 + i < 8 by omega, show ¬25 + i < 16 by omega, show ¬25 + i < 24 by omega,
      show 25 + i < 28 by omega]
  rw [rsvField, h]
  rfl

theorem flagField_commandWord (op : Nat) (f : Bool) (row col arg : Nat) :
    flagField (commandWord op f row col arg) = f := by
  rw [flagField, getLsbD_commandWord]
  simp

theorem rowField_commandWord (op : Nat) (f : Bool) (row col arg : Nat) :
    rowField (commandWord op f row col arg) = row % 256 := by
  have h : (commandWord op f row col arg).extractLsb' 16 8 = BitVec.ofNat 8 row := by
    apply BitVec.eq_of_getLsbD_eq
    intro i hi
    rw [BitVec.getLsbD_extractLsb', getLsbD_commandWord]
    simp [hi, show ¬16 + i < 8 by omega, show 16 + i < 24 by omega]
  rw [rowField, h, BitVec.toNat_ofNat]

theorem colField_commandWord (op : Nat) (f : Bool) (row col arg : Nat) :
    colField (commandWord op f row col arg) = col % 256 := by
  have h : (commandWord op f row col arg).extractLsb' 8 8 = BitVec.ofNat 8 col := by
    apply BitVec.eq_of_getLsbD_eq
    intro i hi
    rw [BitVec.getLsbD_extractLsb', getLsbD_commandWord]
    simp [hi, show 8 + i < 16 by omega]
  rw [colField, h, BitVec.toNat_ofNat]

theorem argField_commandWord (op : Nat) (f : Bool) (row col arg : Nat) :
    argField (commandWord op f row col arg) = arg % 256 := by
  have h : (commandWord op f row col arg).extractLsb' 0 8 = BitVec.ofNat 8 arg := by
    apply BitVec.eq_of_getLsbD_eq
    intro i hi
    rw [BitVec.getLsbD_extractLsb', getLsbD_commandWord]
    simp [hi]
  rw [argField, h, BitVec.toNat_ofNat]

/-- A word is its six fields (R90). -/
theorem commandWord_fields (w : Word) (h : rsvField w = 0) :
    commandWord (opField w) (flagField w) (rowField w) (colField w) (argField w) = w := by
  have hr : w.extractLsb' 25 3 = 0#3 := BitVec.eq_of_toNat_eq h
  apply BitVec.eq_of_getLsbD_eq
  intro i hi
  rw [getLsbD_commandWord]
  simp only [opField, flagField, rowField, colField, argField, BitVec.ofNat_toNat, BitVec.setWidth_eq,
    BitVec.getLsbD_extractLsb']
  split
  · simp [*]
  split
  · rw [show 8 + (i - 8) = i by omega]
    simp [show i - 8 < 8 by omega]
  split
  · rw [show 16 + (i - 16) = i by omega]
    simp [show i - 16 < 8 by omega]
  split
  · rw [show i = 24 by omega]
    simp
  split
  · have := congrArg (·.getLsbD (i - 25)) hr
    simp only [BitVec.getLsbD_extractLsb', BitVec.getLsbD_zero, show 25 + (i - 25) = i by omega,
      show i - 25 < 3 by omega, decide_true, Bool.true_and] at this
    exact this.symm
  · rw [show 28 + (i - 28) = i by omega]
    simp [show i - 28 < 4 by omega]

end Sys2Proof
end

