-- ==== Sys2Proof/Laws/State.lean ====
section
/-! SUPPORT. One lemma per field per update of the state, so that no proof unfolds a record update. -/

namespace Sys2Proof.Machine

open Sys2Proof.Config

@[simp] theorem State.withL_L (s : State) (G : Grid) : (s.withL G).L = G := rfl
@[simp] theorem State.withL_P (s : State) (G : Grid) : (s.withL G).P = s.P := rfl
@[simp] theorem State.withL_M (s : State) (G : Grid) : (s.withL G).M = s.M := rfl
@[simp] theorem State.withL_PH (s : State) (G : Grid) : (s.withL G).PH = s.PH := rfl
@[simp] theorem State.withL_T0 (s : State) (G : Grid) : (s.withL G).T0 = s.T0 := rfl
@[simp] theorem State.withL_DUR (s : State) (G : Grid) : (s.withL G).DUR = s.DUR := rfl
@[simp] theorem State.withL_PIN (s : State) (G : Grid) : (s.withL G).PIN = s.PIN := rfl
@[simp] theorem State.withL_result (s : State) (G : Grid) : (s.withL G).result = s.result := rfl
@[simp] theorem State.withL_events (s : State) (G : Grid) : (s.withL G).events = s.events := rfl
@[simp] theorem State.withL_inputs (s : State) (G : Grid) : (s.withL G).inputs = s.inputs := rfl
@[simp] theorem State.withL_NOW (s : State) (G : Grid) : (s.withL G).NOW = s.NOW := rfl
@[simp] theorem State.withL_sink (s : State) (G : Grid) : (s.withL G).sink = s.sink := rfl

@[simp] theorem State.withMask_L (s : State) (k : Nat) (G : Grid) : (s.withMask k G).L = s.L := rfl
@[simp] theorem State.withMask_P (s : State) (k : Nat) (G : Grid) : (s.withMask k G).P = s.P := rfl
@[simp] theorem State.withMask_PH (s : State) (k : Nat) (G : Grid) : (s.withMask k G).PH = s.PH := rfl
@[simp] theorem State.withMask_T0 (s : State) (k : Nat) (G : Grid) : (s.withMask k G).T0 = s.T0 := rfl
@[simp] theorem State.withMask_DUR (s : State) (k : Nat) (G : Grid) : (s.withMask k G).DUR = s.DUR := rfl
@[simp] theorem State.withMask_PIN (s : State) (k : Nat) (G : Grid) : (s.withMask k G).PIN = s.PIN := rfl
@[simp] theorem State.withMask_result (s : State) (k : Nat) (G : Grid) : (s.withMask k G).result = s.result := rfl
@[simp] theorem State.withMask_events (s : State) (k : Nat) (G : Grid) : (s.withMask k G).events = s.events := rfl
@[simp] theorem State.withMask_inputs (s : State) (k : Nat) (G : Grid) : (s.withMask k G).inputs = s.inputs := rfl
@[simp] theorem State.withMask_NOW (s : State) (k : Nat) (G : Grid) : (s.withMask k G).NOW = s.NOW := rfl
@[simp] theorem State.withMask_sink (s : State) (k : Nat) (G : Grid) : (s.withMask k G).sink = s.sink := rfl

@[simp] theorem State.complete_L (s : State) (r : Byte) (ev : List LineEvent) : (s.complete r ev).L = s.L := rfl
@[simp] theorem State.complete_P (s : State) (r : Byte) (ev : List LineEvent) : (s.complete r ev).P = s.P := rfl
@[simp] theorem State.complete_M (s : State) (r : Byte) (ev : List LineEvent) : (s.complete r ev).M = s.M := rfl
@[simp] theorem State.complete_PH (s : State) (r : Byte) (ev : List LineEvent) : (s.complete r ev).PH = s.PH := rfl
@[simp] theorem State.complete_T0 (s : State) (r : Byte) (ev : List LineEvent) : (s.complete r ev).T0 = s.T0 := rfl
@[simp] theorem State.complete_DUR (s : State) (r : Byte) (ev : List LineEvent) : (s.complete r ev).DUR = s.DUR := rfl
@[simp] theorem State.complete_PIN (s : State) (r : Byte) (ev : List LineEvent) : (s.complete r ev).PIN = s.PIN := rfl
@[simp] theorem State.complete_result (s : State) (r : Byte) (ev : List LineEvent) : (s.complete r ev).result = some r := rfl
@[simp] theorem State.complete_events (s : State) (r : Byte) (ev : List LineEvent) : (s.complete r ev).events = ev := rfl
@[simp] theorem State.complete_inputs (s : State) (r : Byte) (ev : List LineEvent) : (s.complete r ev).inputs = s.inputs := rfl
@[simp] theorem State.complete_NOW (s : State) (r : Byte) (ev : List LineEvent) : (s.complete r ev).NOW = s.NOW := rfl
@[simp] theorem State.complete_sink (s : State) (r : Byte) (ev : List LineEvent) : (s.complete r ev).sink = s.sink := rfl

@[simp] theorem State.phaseUpdate_L (s : State) (now : Time) : (phaseUpdate now s).L = s.L := rfl
@[simp] theorem State.phaseUpdate_P (s : State) (now : Time) : (phaseUpdate now s).P = s.P := rfl
@[simp] theorem State.phaseUpdate_M (s : State) (now : Time) : (phaseUpdate now s).M = s.M := rfl
@[simp] theorem State.phaseUpdate_PIN (s : State) (now : Time) : (phaseUpdate now s).PIN = s.PIN := rfl
@[simp] theorem State.phaseUpdate_result (s : State) (now : Time) : (phaseUpdate now s).result = s.result := rfl
@[simp] theorem State.phaseUpdate_events (s : State) (now : Time) : (phaseUpdate now s).events = s.events := rfl
@[simp] theorem State.phaseUpdate_inputs (s : State) (now : Time) : (phaseUpdate now s).inputs = s.inputs := rfl
@[simp] theorem State.phaseUpdate_NOW (s : State) (now : Time) : (phaseUpdate now s).NOW = s.NOW := rfl
@[simp] theorem State.phaseUpdate_sink (s : State) (now : Time) : (phaseUpdate now s).sink = s.sink := rfl

@[simp] theorem State.compose_L (s : State) (any : Bool) : (compose any s).L = s.L := rfl
@[simp] theorem State.compose_M (s : State) (any : Bool) : (compose any s).M = s.M := rfl
@[simp] theorem State.compose_PH (s : State) (any : Bool) : (compose any s).PH = s.PH := rfl
@[simp] theorem State.compose_T0 (s : State) (any : Bool) : (compose any s).T0 = s.T0 := rfl
@[simp] theorem State.compose_DUR (s : State) (any : Bool) : (compose any s).DUR = s.DUR := rfl
@[simp] theorem State.compose_PIN (s : State) (any : Bool) : (compose any s).PIN = s.PIN := rfl
@[simp] theorem State.compose_result (s : State) (any : Bool) : (compose any s).result = s.result := rfl
@[simp] theorem State.compose_events (s : State) (any : Bool) : (compose any s).events = s.events := rfl
@[simp] theorem State.compose_inputs (s : State) (any : Bool) : (compose any s).inputs = s.inputs := rfl
@[simp] theorem State.compose_NOW (s : State) (any : Bool) : (compose any s).NOW = s.NOW := rfl
@[simp] theorem State.compose_sink (s : State) (any : Bool) : (compose any s).sink = s.sink := rfl

@[simp] theorem State.transmit_L (s : State) : (transmit s).L = s.L := by simp only [transmit]
@[simp] theorem State.transmit_P (s : State) : (transmit s).P = s.P := by simp only [transmit]
@[simp] theorem State.transmit_M (s : State) : (transmit s).M = s.M := by simp only [transmit]
@[simp] theorem State.transmit_PH (s : State) : (transmit s).PH = s.PH := by simp only [transmit]
@[simp] theorem State.transmit_T0 (s : State) : (transmit s).T0 = s.T0 := by simp only [transmit]
@[simp] theorem State.transmit_DUR (s : State) : (transmit s).DUR = s.DUR := by simp only [transmit]
@[simp] theorem State.transmit_result (s : State) : (transmit s).result = s.result := by simp only [transmit]
@[simp] theorem State.transmit_events (s : State) : (transmit s).events = s.events := by simp only [transmit]
@[simp] theorem State.transmit_inputs (s : State) : (transmit s).inputs = s.inputs := by simp only [transmit]
@[simp] theorem State.transmit_NOW (s : State) : (transmit s).NOW = s.NOW := by simp only [transmit]

/-- The lines after the transmission. -/
theorem State.transmit_PIN (s : State) : (transmit s).PIN = (transmitted s).PIN := by simp only [transmit]

/-- The chain after the transmission. -/
theorem State.transmit_sink (s : State) : (transmit s).sink = (transmitted s).sink := by simp only [transmit]

@[simp] theorem State.offerWord_L (s : State) (w : Word) : (offerWord w s).L = s.L := rfl
@[simp] theorem State.offerWord_P (s : State) (w : Word) : (offerWord w s).P = s.P := rfl
@[simp] theorem State.offerWord_M (s : State) (w : Word) : (offerWord w s).M = s.M := rfl
@[simp] theorem State.offerWord_PH (s : State) (w : Word) : (offerWord w s).PH = s.PH := rfl
@[simp] theorem State.offerWord_T0 (s : State) (w : Word) : (offerWord w s).T0 = s.T0 := rfl
@[simp] theorem State.offerWord_DUR (s : State) (w : Word) : (offerWord w s).DUR = s.DUR := rfl
@[simp] theorem State.offerWord_PIN (s : State) (w : Word) : (offerWord w s).PIN = s.PIN := rfl
@[simp] theorem State.offerWord_result (s : State) (w : Word) : (offerWord w s).result = s.result := rfl
@[simp] theorem State.offerWord_events (s : State) (w : Word) : (offerWord w s).events = s.events := rfl
@[simp] theorem State.offerWord_inputs (s : State) (w : Word) : (offerWord w s).inputs = .issue w :: s.inputs := rfl
@[simp] theorem State.offerWord_NOW (s : State) (w : Word) : (offerWord w s).NOW = s.NOW := rfl
@[simp] theorem State.offerWord_sink (s : State) (w : Word) : (offerWord w s).sink = s.sink := rfl

/-- `M[k]` after `withMask k`. -/
theorem State.maskOf_withMask_same (s : State) (G : Grid) {k : Nat} (hk : k < NCLASS) :
    (s.withMask k G).maskOf k = G := by
  simp [State.maskOf, State.withMask, hk]

/-- The other class's mask is kept (R156). -/
theorem State.maskOf_withMask_other (s : State) (G : Grid) {k k' : Nat} (h : k' ≠ k) :
    (s.withMask k G).maskOf k' = s.maskOf k' := by
  unfold State.maskOf State.withMask
  by_cases hk : k < NCLASS <;> by_cases hk' : k' < NCLASS <;> simp [hk, hk', Ne.symm h]

@[simp] theorem State.maskOf_withL (s : State) (G : Grid) (k : Nat) : (s.withL G).maskOf k = s.maskOf k := rfl

@[simp] theorem State.maskOf_complete (s : State) (r : Byte) (ev : List LineEvent) (k : Nat) :
    (s.complete r ev).maskOf k = s.maskOf k := rfl

/-- The later of two writes of one mask wins. -/
theorem State.withMask_withMask (s : State) (k : Nat) (G H : Grid) :
    (s.withMask k G).withMask k H = s.withMask k H := by
  unfold State.withMask
  by_cases hk : k < NCLASS <;> simp [hk]

/-- A class index reads its own mask. -/
theorem State.maskOf_classIx (s : State) (k : ClassIx) : s.maskOf k = s.M[k] := by
  exact dif_pos k.isLt

end Sys2Proof.Machine
end

