-- ==== Sys2Proof/Laws/Ops.lean ====
section
/-! SUPPORT. What reading and writing bits of a grid do (R13, R62, R64), and what each completing operation
answers. -/

namespace Sys2Proof.Machine

open Sys2Proof.Config

/-- Two grids are equal when their 256 bits are. -/
theorem grid_ext {G H : Grid} (h : ∀ r c, r < ROWS → c < COLS → bitOf G r c = bitOf H r c) : G = H := by
  apply Vector.ext
  intro r hr
  apply BitVec.eq_of_getLsbD_eq
  intro c hc
  have := h r c hr hc
  simpa [bitOf, rowOf, hr] using this

/-- No bit outside the grid reads as 1. -/
theorem bitOf_outside {G : Grid} {r c : Nat} (h : ¬(r < ROWS ∧ c < COLS)) : bitOf G r c = false := by
  unfold bitOf rowOf
  by_cases hr : r < ROWS
  · have hc : 32 ≤ c := by
      have : ¬c < COLS := fun hc => h ⟨hr, hc⟩
      simpa using this
    simp [hr, BitVec.getLsbD_of_ge _ _ hc]
  · simp [hr]

/-- The empty grid has no bit set. -/
theorem bitOf_emptyGrid (r c : Nat) : bitOf emptyGrid r c = false := by
  unfold bitOf rowOf emptyGrid
  by_cases hr : r < ROWS <;> simp [hr]

theorem rowOf_setRow (G : Grid) (r r' : Nat) (w : Row) :
    rowOf (setRow G r w) r' = if r' = r ∧ r < ROWS then w else rowOf G r' := by
  unfold rowOf setRow
  by_cases hr : r < ROWS
  · by_cases hr' : r' < ROWS
    · by_cases h : r = r'
      · subst h
        simp [hr]
      · simp [hr, hr', h, Ne.symm h]
    · have : r' ≠ r := fun e => hr' (e ▸ hr)
      simp [hr, hr', this]
  · simp [hr]

/-- The bits of a row word after n of them are replaced (R13). -/
theorem getLsbD_insertBits {n : Nat} (w : Row) (c : Nat) (v : BitVec n) (hn : n ≤ 32) (i : Nat) :
    (insertBits w c v).getLsbD i
      = if c ≤ i ∧ i < c + n ∧ i < 32 then v.getLsbD (i - c) else w.getLsbD i := by
  unfold insertBits
  simp only [BitVec.getLsbD_or, BitVec.getLsbD_and, BitVec.getLsbD_not, BitVec.getLsbD_shiftLeft,
    BitVec.getLsbD_setWidth, BitVec.getLsbD_allOnes]
  by_cases hi : i < 32
  · by_cases hc : c ≤ i
    · by_cases hn' : i < c + n
      · have : i - c < n := by omega
        have h32 : i - c < 32 := by omega
        have : ¬i < c := by omega
        simp [*]
      · have h1 : ¬i - c < n := by omega
        have : ¬i < c := by omega
        simp [*, BitVec.getLsbD_of_ge v (i - c) (by omega)]
    · have : i < c := by omega
      simp [*]
  · have hw : w.getLsbD i = false := BitVec.getLsbD_of_ge _ _ (by omega)
    simp [hi, hw]

/-- Every bit of a grid after `MemWrite` (R13): the n bits written, and no other. -/
theorem bitOf_memWrite {n : Nat} (G : Grid) (r c : Nat) (v : BitVec n) (hn : n ≤ 32) (r' c' : Nat) :
    bitOf (memWrite G r c v) r' c'
      = if r' = r ∧ r < ROWS ∧ c ≤ c' ∧ c' < c + n ∧ c' < COLS then v.getLsbD (c' - c)
        else bitOf G r' c' := by
  unfold bitOf memWrite
  rw [rowOf_setRow]
  by_cases h : r' = r ∧ r < ROWS
  · obtain ⟨rfl, hr⟩ := h
    simp [hr, getLsbD_insertBits _ _ _ hn]
  · have : ¬(r' = r ∧ r < ROWS ∧ c ≤ c' ∧ c' < c + n ∧ c' < COLS) := fun h' => h ⟨h'.1, h'.2.1⟩
    rw [if_neg h, if_neg this]

/-- The bits `MemRead` gives. -/
theorem getLsbD_memRead (G : Grid) (r c n i : Nat) :
    (memRead G r c n).getLsbD i = (decide (i < n) && bitOf G r (c + i)) := by
  simp [memRead, bitOf]

/-- `finish` answers the state with its result and no line event. -/
theorem finish_eq (r : Byte) (s : State) : finish r s = .next (s.complete r []) := rfl

/-- A rejection writes no state (R232). -/
theorem raiseInvalidParam_eq (f : Byte) (s : State) : raiseInvalidParam f s = .next (s.complete f []) := rfl

/-- An illegal command writes no state (R96). -/
theorem raiseIllegalCommand_eq (s : State) : raiseIllegalCommand s = .next (s.complete ILLEGAL []) := rfl

end Sys2Proof.Machine
end

