-- ==== Sys2Proof/Laws/Flags.lean ====
section
/-! SUPPORT. The phase update and the composition, class by class and row by row (R172, R173). -/

namespace Sys2Proof.Machine

open Sys2Proof.Config

/-- A class flips or keeps all three registers (R172). -/
theorem updateClass_cases (now : Time) (k : ClassIx) (c : ClassPhase) :
    (c.dur < elapsed now c.t0
        ∧ updateClass now k c = ⟨flipPhase c.ph, now, durationOf k (flipPhase c.ph)⟩)
      ∨ (¬c.dur < elapsed now c.t0 ∧ updateClass now k c = c) := by
  unfold updateClass
  split
  · exact .inl ⟨‹_›, rfl⟩
  · exact .inr ⟨‹_›, rfl⟩

theorem phaseUpdate_PH (now : Time) (s : State) (k : ClassIx) :
    (phaseUpdate now s).PH[k] = (updateClass now k (s.classPhase k)).ph := by
  simp [phaseUpdate]

theorem phaseUpdate_T0 (now : Time) (s : State) (k : ClassIx) :
    (phaseUpdate now s).T0[k] = (updateClass now k (s.classPhase k)).t0 := by
  simp [phaseUpdate]

theorem phaseUpdate_DUR (now : Time) (s : State) (k : ClassIx) :
    (phaseUpdate now s).DUR[k] = (updateClass now k (s.classPhase k)).dur := by
  simp [phaseUpdate]

/-- A composed row, with blink active. -/
theorem compose_P_true (s : State) (r : Fin ROWS) : (compose true s).P[r] = maskDark s r := by
  simp [compose]

/-- A composed row, with no blink active. -/
theorem compose_P_false (s : State) (r : Fin ROWS) : (compose false s).P[r] = s.L[r] := by
  simp [compose]

/-- The row masked by the two classes in turn (R173). -/
theorem maskDark_eq (s : State) (r : Fin ROWS) :
    maskDark s r =
      (let w := if s.PH[NORMAL] = Phase.dark then s.L[r] &&& ~~~(s.M[NORMAL])[r] else s.L[r]
       if s.PH[SLOW] = Phase.dark then w &&& ~~~(s.M[SLOW])[r] else w) := by
  rfl

end Sys2Proof.Machine
end

