-- ==== Sys2Proof/Laws/Operands.lean ====
section
/-! SUPPORT. The operand forms: validity, the font lookup's three branches, the span byte's bits. -/

namespace Sys2Proof.Machine

open Sys2Proof.Config

/-- `ValidSpan` implies `ValidPos` of every column of the span (R141). -/
theorem validPos_of_validSpan {row col0 i : Nat} (h : ValidSpan row col0) (hi : i ≤ 7) :
    ValidPos row (col0 + i) := by
  obtain ⟨h1, h2⟩ := h
  exact ⟨h1, by omega⟩

/-- First branch of R121: an enumerated code. -/
theorem fontLookup_code (c : Fin NGLYPH) : fontLookup c = FONT[c] := by
  simp [fontLookup]

/-- Second branch of R121: an ASCII digit. -/
theorem fontLookup_ascii (d : Fin 10) : fontLookup (0x30 + d) = FONT[d.val]'(by have := d.isLt; show d.val < 30; omega) := by
  have := d.isLt
  unfold fontLookup
  rw [dif_neg (by show ¬(48 + d.val < 30); omega), dif_pos (by omega)]
  simp

/-- Third branch of R121: every other selector. -/
theorem fontLookup_other {sel : Nat} (h1 : ¬sel < NGLYPH) (h2 : ¬(0x30 ≤ sel ∧ sel ≤ 0x39)) :
    fontLookup sel = FONT[G_ERROR] := by
  rw [fontLookup, dif_neg h1, dif_neg h2]

/-- Span bit i of a digit: segment i below 7, the decimal point at 7 (R63). -/
theorem getLsbD_digitByte (glyph : Nat) (dp : Bool) (i : Nat) :
    (digitByte glyph dp).getLsbD i = if i < 7 then (fontLookup glyph).getLsbD i else decide (i = 7) && dp := by
  unfold digitByte
  rw [BitVec.getLsbD_append]
  by_cases h : i < 7
  · simp [h]
  · by_cases h' : i = 7
    · simp [h']
    · have : i - 7 ≠ 0 := by omega
      simp [h, h', this]

/-- A query's bit as a result: ON or OFF (R94). -/
theorem bitResult_memRead (G : Grid) (r c : Nat) :
    bitResult (memRead G r c 1) = if bitOf G r c then OK else FAIL := by
  have h : memRead G r c 1 = BitVec.ofBool (bitOf G r c) := by
    apply BitVec.eq_of_getLsbD_eq
    intro i hi
    have : i = 0 := by omega
    subst this
    rw [getLsbD_memRead]
    simp
  rw [h]
  cases bitOf G r c <;> decide

/-- What the shared single-LED write answers. -/
theorem writeLed_eq (row col : Nat) (f : BitVec 1 → BitVec 1) (s : State) :
    writeLed row col f s
      = .next (if ValidPos row col then
          (s.withL (memWrite s.L row col (f (memRead s.L row col 1)))).complete OK []
        else s.complete FAIL []) := by
  unfold writeLed
  split <;> rfl

/-- What the shared membership write answers. -/
theorem writeBlink_eq (row col k : Nat) (b : BitVec 1) (s : State) :
    writeBlink row col k b s
      = .next (if ValidPos row col ∧ ValidClass k then
          (s.withMask k (memWrite (s.maskOf k) row col b)).complete OK []
        else s.complete FAIL []) := by
  unfold writeBlink
  split <;> rfl

/-- What the shared span membership write answers. -/
theorem writeDigitBlink_eq (row col0 : Nat) (dp : Bool) (k : Nat) (seg : BitVec 7) (pt : BitVec 1) (s : State) :
    writeDigitBlink row col0 dp k seg pt s
      = .next (if ValidSpan row col0 ∧ ValidClass k then
          (s.withMask k (writeDigitMask (s.maskOf k) row col0 dp seg pt)).complete OK []
        else s.complete FAIL []) := by
  unfold writeDigitBlink
  split <;> rfl

end Sys2Proof.Machine
end

