-- ==== Sys2Proof/Laws/Lines.lean ====
section
/-! SUPPORT. Driving line events: what one bit does to the wires, and that sequences compose (R205, R211). -/

namespace Sys2Proof.Machine

open Sys2Proof.Config

@[simp] theorem driveAll_nil (w : Wires) : driveAll w [] = w := rfl

@[simp] theorem driveAll_cons (w : Wires) (e : LineEvent) (es : List LineEvent) :
    driveAll w (e :: es) = driveAll (drive w e) es := rfl

theorem driveAll_append (w : Wires) (es fs : List LineEvent) :
    driveAll w (es ++ fs) = driveAll (driveAll w es) fs := by
  simp [driveAll]

/-- One more bit at the low end of the chain (R211). -/
def shiftIn (sr : Frame) (b : Bool) : Frame := (sr <<< 1) ||| (BitVec.ofBool b).setWidth 40

/-- `SendBit(b)` with CLK and STB low: DATA holds b, the chain has taken it, the latch is untouched. -/
theorem driveAll_sendBit (w : Wires) (b : Bool) (hc : w.PIN.clk = false) (hs : w.PIN.stb = false) :
    driveAll w (sendBit b)
      = ⟨⟨false, b, false, w.PIN.oe⟩, ⟨shiftIn w.sink.SR b, w.sink.LATCH⟩⟩ := by
  obtain ⟨⟨clk, data, stb, oe⟩, ⟨sr, latch⟩⟩ := w
  simp only at hc hs
  subst hc hs
  rfl

/-- A run of bits with CLK and STB low: the chain has taken them in order, the latch is untouched. -/
theorem driveAll_sendBits (bits : List Bool) (w : Wires) (hc : w.PIN.clk = false) (hs : w.PIN.stb = false) :
    driveAll w (bits.flatMap sendBit)
      = ⟨⟨false, bits.getLastD w.PIN.data, false, w.PIN.oe⟩, ⟨bits.foldl shiftIn w.sink.SR, w.sink.LATCH⟩⟩ := by
  induction bits generalizing w with
  | nil =>
    obtain ⟨⟨clk, data, stb, oe⟩, ⟨sr, latch⟩⟩ := w
    simp only at hc hs
    subst hc hs
    rfl
  | cons b bs ih =>
    rw [List.flatMap_cons, driveAll_append, driveAll_sendBit w b hc hs, ih _ rfl rfl]
    cases bs <;> rfl

theorem bitsDown_length (f : Frame) (n : Nat) : (bitsDown f n).length = n := by
  induction n with
  | zero => rfl
  | succ n ih => simp [bitsDown, ih]

theorem record_append (es fs : List LineEvent) (p : Pins) :
    record p (es ++ fs) = record p es ++ record (es.foldl pinStep p) fs := by
  induction es generalizing p with
  | nil => rfl
  | cons e es ih => simp [record, ih, List.append_assoc]

end Sys2Proof.Machine
end

