-- ==== Sys2Proof/Laws/Refresh.lean ====
section
/-! SUPPORT. What a refresh leaves in every field of the state, in terms of its three steps (R170). -/

namespace Sys2Proof.Machine

open Sys2Proof.Config

/-- The phase update writes the three phase registers and nothing else (R172). -/
theorem afterPhases_frame (s : State) :
    afterPhases s
      = { s with PH := (afterPhases s).PH, T0 := (afterPhases s).T0, DUR := (afterPhases s).DUR } := by
  unfold afterPhases
  split <;> rfl

@[simp] theorem afterPhases_L (s : State) : (afterPhases s).L = s.L := by rw [afterPhases_frame]
@[simp] theorem afterPhases_P (s : State) : (afterPhases s).P = s.P := by rw [afterPhases_frame]
@[simp] theorem afterPhases_M (s : State) : (afterPhases s).M = s.M := by rw [afterPhases_frame]
@[simp] theorem afterPhases_PIN (s : State) : (afterPhases s).PIN = s.PIN := by rw [afterPhases_frame]
@[simp] theorem afterPhases_inputs (s : State) : (afterPhases s).inputs = s.inputs := by rw [afterPhases_frame]
@[simp] theorem afterPhases_NOW (s : State) : (afterPhases s).NOW = s.NOW := by rw [afterPhases_frame]
@[simp] theorem afterPhases_sink (s : State) : (afterPhases s).sink = s.sink := by rw [afterPhases_frame]

/-- Class k's triple after the phase update (R172, R178). -/
theorem afterPhases_classPhase (s : State) (k : ClassIx) :
    (afterPhases s).classPhase k
      = if anyBlinkActive s.M then updateClass s.NOW k (s.classPhase k) else s.classPhase k := by
  unfold afterPhases
  split
  · simp only [State.classPhase, phaseUpdate_PH, phaseUpdate_T0, phaseUpdate_DUR]
  · rfl

@[simp] theorem refreshed_L (s : State) : (refreshed s).L = s.L := by simp [refreshed, afterCompose]
@[simp] theorem refreshed_P (s : State) : (refreshed s).P = (afterCompose s).P := by simp [refreshed]
@[simp] theorem refreshed_M (s : State) : (refreshed s).M = s.M := by simp [refreshed, afterCompose]
@[simp] theorem refreshed_PH (s : State) : (refreshed s).PH = (afterPhases s).PH := by
  simp [refreshed, afterCompose]
@[simp] theorem refreshed_T0 (s : State) : (refreshed s).T0 = (afterPhases s).T0 := by
  simp [refreshed, afterCompose]
@[simp] theorem refreshed_DUR (s : State) : (refreshed s).DUR = (afterPhases s).DUR := by
  simp [refreshed, afterCompose]
@[simp] theorem refreshed_inputs (s : State) : (refreshed s).inputs = s.inputs := by
  simp [refreshed, afterCompose]
@[simp] theorem refreshed_NOW (s : State) : (refreshed s).NOW = s.NOW := by simp [refreshed, afterCompose]
@[simp] theorem refreshed_result (s : State) : (refreshed s).result = some OK := by simp [refreshed]
@[simp] theorem refreshed_events (s : State) : (refreshed s).events = transmitEvents (afterCompose s).P := by
  simp [refreshed]

/-- The lines and the chain after a refresh: the wires before it, driven by the whole transmission. -/
theorem refreshed_wires (s : State) :
    (⟨(refreshed s).PIN, (refreshed s).sink⟩ : Wires)
      = driveAll ⟨s.PIN, s.sink⟩ (transmitEvents (afterCompose s).P) := by
  have hp : (afterCompose s).PIN = s.PIN := by simp [afterCompose]
  have hs : (afterCompose s).sink = s.sink := by simp [afterCompose]
  rw [← hp, ← hs]
  change (⟨(refreshed s).PIN, (refreshed s).sink⟩ : Wires) = transmitted (afterCompose s)
  unfold refreshed
  rw [State.complete_PIN, State.complete_sink, State.transmit_PIN, State.transmit_sink]

/-- A row of the composed grid (R173). -/
theorem rowOf_afterCompose (s : State) {r : Nat} (hr : r < ROWS) :
    rowOf (afterCompose s).P r
      = if anyBlinkActive s.M then maskDark (afterPhases s) ⟨r, hr⟩ else s.L[r] := by
  rw [rowOf, dif_pos hr]
  simp [afterCompose, compose]

end Sys2Proof.Machine
end

