-- ==== Sys2Proof/Laws/Instr.lean ====
section
/-! SUPPORT. What each operation answers, as one `next` of one state: the form proofs start from instead of
unfolding a meaning. -/

namespace Sys2Proof.Machine

open Sys2Proof.Config

theorem exec_setled (row col : Nat) (s : State) :
    exec (.setled row col) s
      = .next (if ValidPos row col then (s.withL (memWrite s.L row col 1#1)).complete OK []
        else s.complete FAIL []) := by
  simp only [exec, execSetled, writeLed_eq]

theorem exec_clrled (row col : Nat) (s : State) :
    exec (.clrled row col) s
      = .next (if ValidPos row col then (s.withL (memWrite s.L row col 0#1)).complete OK []
        else s.complete FAIL []) := by
  simp only [exec, execClrled, writeLed_eq]

theorem exec_tglled (row col : Nat) (s : State) :
    exec (.tglled row col) s
      = .next (if ValidPos row col then
          (s.withL (memWrite s.L row col (1#1 ^^^ memRead s.L row col 1))).complete OK []
        else s.complete FAIL []) := by
  simp only [exec, execTglled, writeLed_eq]

theorem exec_isledon (row col : Nat) (s : State) :
    exec (.isledon row col) s
      = .next (s.complete (if ValidPos row col then bitResult (memRead s.L row col 1) else FAIL) []) := by
  simp only [exec, execIsledon]
  split <;> rfl

theorem exec_setdigit (row col0 glyph : Nat) (dp : Bool) (s : State) :
    exec (.setdigit row col0 glyph dp) s
      = .next (if ValidSpan row col0 then
          (s.withL (memWrite s.L row col0 (digitByte glyph dp))).complete OK []
        else s.complete FAIL []) := by
  simp only [exec, execSetdigit]
  split <;> rfl

theorem exec_setblink (row col k : Nat) (s : State) :
    exec (.setblink row col k) s
      = .next (if ValidPos row col ∧ ValidClass k then
          (s.withMask k (memWrite (s.maskOf k) row col 1#1)).complete OK []
        else s.complete FAIL []) := by
  simp only [exec, execSetblink, writeBlink_eq]

theorem exec_clrblink (row col k : Nat) (s : State) :
    exec (.clrblink row col k) s
      = .next (if ValidPos row col ∧ ValidClass k then
          (s.withMask k (memWrite (s.maskOf k) row col 0#1)).complete OK []
        else s.complete FAIL []) := by
  simp only [exec, execClrblink, writeBlink_eq]

theorem exec_setdigblink (row col0 : Nat) (dp : Bool) (k : Nat) (s : State) :
    exec (.setdigblink row col0 dp k) s
      = .next (if ValidSpan row col0 ∧ ValidClass k then
          (s.withMask k (writeDigitMask (s.maskOf k) row col0 dp 0x7F#7 1#1)).complete OK []
        else s.complete FAIL []) := by
  simp only [exec, execSetdigblink, writeDigitBlink_eq]

theorem exec_clrdigblink (row col0 : Nat) (dp : Bool) (k : Nat) (s : State) :
    exec (.clrdigblink row col0 dp k) s
      = .next (if ValidSpan row col0 ∧ ValidClass k then
          (s.withMask k (writeDigitMask (s.maskOf k) row col0 dp 0x00#7 0#1)).complete OK []
        else s.complete FAIL []) := by
  simp only [exec, execClrdigblink, writeDigitBlink_eq]

theorem exec_qryblink (row col k : Nat) (s : State) :
    exec (.qryblink row col k) s
      = .next (s.complete
          (if ValidPos row col ∧ ValidClass k then bitResult (memRead (s.maskOf k) row col 1) else INVALID) []) := by
  simp only [exec, execQryblink]
  split <;> rfl

theorem exec_refresh (s : State) : exec .refresh s = .next (refreshed s) := rfl

end Sys2Proof.Machine
end

