-- ==== Sys2Proof/Laws/PerInstr.lean ====
section
/-! SUPPORT. One lemma per operation: the encoder's word carries the operation's code in `op`, zero in
`rsv`, and the operands of a well-formed instruction unchanged in the fields the operation uses (R90, R92). -/

namespace Sys2Proof.Laws.Encoding

open Sys2Proof

/-- The fields `op`, `rsv`, `f`, `row`, `col`, `arg` of an instruction (R90, R92). -/
def fields : Instr → Nat × Bool × Nat × Nat × Nat
  | .setled row col => (0x1, false, row, col, 0)
  | .clrled row col => (0x2, false, row, col, 0)
  | .tglled row col => (0x3, false, row, col, 0)
  | .isledon row col => (0x4, false, row, col, 0)
  | .setdigit row col0 glyph dp => (0x5, dp, row, col0, glyph)
  | .setblink row col k => (0x6, false, row, col, k)
  | .clrblink row col k => (0x7, false, row, col, k)
  | .setdigblink row col0 dp k => (0x8, dp, row, col0, k)
  | .clrdigblink row col0 dp k => (0x9, dp, row, col0, k)
  | .qryblink row col k => (0xA, false, row, col, k)
  | .refresh => (0xB, false, 0, 0, 0)

/-- The word of a well-formed instruction carries its fields, and `rsv` is zero. -/
def Statement (i : Instr) : Prop :=
  i.WellFormed →
    (opField (encode i), flagField (encode i), rowField (encode i), colField (encode i), argField (encode i))
        = fields i
      ∧ rsvField (encode i) = 0

/-- The fields of a word whose operands fit their bytes. -/
theorem commandWord_statement {op row col arg : Nat} (f : Bool) (ho : op < 16) (hr : fitsByte row = true)
    (hc : fitsByte col = true) (ha : fitsByte arg = true) :
    (opField (commandWord op f row col arg), flagField (commandWord op f row col arg),
        rowField (commandWord op f row col arg), colField (commandWord op f row col arg),
        argField (commandWord op f row col arg)) = (op, f, row, col, arg)
      ∧ rsvField (commandWord op f row col arg) = 0 := by
  simp only [fitsByte, decide_eq_true_eq] at hr hc ha
  rw [opField_commandWord, flagField_commandWord, rowField_commandWord, colField_commandWord,
    argField_commandWord, rsvField_commandWord, Nat.mod_eq_of_lt ho, Nat.mod_eq_of_lt hr,
    Nat.mod_eq_of_lt hc, Nat.mod_eq_of_lt ha]
  exact ⟨rfl, rfl⟩

theorem and_split {a b : Bool} (h : (a && b) = true) : a = true ∧ b = true := by
  simpa using h

theorem setled (row col : Nat) : Statement (.setled row col) := fun h =>
  commandWord_statement false (by decide) (and_split h).1 (and_split h).2 rfl

theorem clrled (row col : Nat) : Statement (.clrled row col) := fun h =>
  commandWord_statement false (by decide) (and_split h).1 (and_split h).2 rfl

theorem tglled (row col : Nat) : Statement (.tglled row col) := fun h =>
  commandWord_statement false (by decide) (and_split h).1 (and_split h).2 rfl

theorem isledon (row col : Nat) : Statement (.isledon row col) := fun h =>
  commandWord_statement false (by decide) (and_split h).1 (and_split h).2 rfl

theorem setdigit (row col0 glyph : Nat) (dp : Bool) : Statement (.setdigit row col0 glyph dp) := fun h =>
  commandWord_statement dp (by decide) (and_split (and_split h).1).1 (and_split (and_split h).1).2 (and_split h).2

theorem setblink (row col k : Nat) : Statement (.setblink row col k) := fun h =>
  commandWord_statement false (by decide) (and_split (and_split h).1).1 (and_split (and_split h).1).2 (and_split h).2

theorem clrblink (row col k : Nat) : Statement (.clrblink row col k) := fun h =>
  commandWord_statement false (by decide) (and_split (and_split h).1).1 (and_split (and_split h).1).2 (and_split h).2

theorem setdigblink (row col0 : Nat) (dp : Bool) (k : Nat) : Statement (.setdigblink row col0 dp k) := fun h =>
  commandWord_statement dp (by decide) (and_split (and_split h).1).1 (and_split (and_split h).1).2 (and_split h).2

theorem clrdigblink (row col0 : Nat) (dp : Bool) (k : Nat) : Statement (.clrdigblink row col0 dp k) := fun h =>
  commandWord_statement dp (by decide) (and_split (and_split h).1).1 (and_split (and_split h).1).2 (and_split h).2

theorem qryblink (row col k : Nat) : Statement (.qryblink row col k) := fun h =>
  commandWord_statement false (by decide) (and_split (and_split h).1).1 (and_split (and_split h).1).2 (and_split h).2

theorem refresh : Statement .refresh := fun _ =>
  commandWord_statement false (by decide) rfl rfl rfl

end Sys2Proof.Laws.Encoding
end

