-- ==== Sys2Proof/Laws/Step.lean ====
section
/-! SUPPORT. Which of its three moves a step makes. -/

namespace Sys2Proof.Machine

/-- With no outside move offered the block is idle. -/
theorem step_idle {s : State} (h : s.inputs = []) : step s = .next s := by
  simp [step, h]

/-- The counter advances. -/
theorem step_tick {s : State} {d : Time} {rest : List Input} (h : s.inputs = .tick d :: rest) :
    step s = .next { s with inputs := rest, NOW := s.NOW + d } := by
  simp [step, h, runInput, passTime]

/-- A command word is accepted. -/
theorem step_issue {s : State} {w : Word} {rest : List Input} (h : s.inputs = .issue w :: rest) :
    step s = runWord w { s with inputs := rest } := by
  simp [step, h, runInput]

/-- A word that spells an operation runs it. -/
theorem runWord_ok {w : Word} {i : Instr} (h : decode w = .ok i) (s : State) : runWord w s = exec i s := by
  simp [runWord, h]

/-- A word that spells none is an illegal command, whatever the reason. -/
theorem runWord_error {w : Word} {e : Illegal} (h : decode w = .error e) (s : State) :
    runWord w s = .next (s.complete ILLEGAL []) := by
  simp [runWord, h, raiseIllegalCommand]

/-- The word offered by the host's interface is the very next command, and nothing else changes. -/
theorem step_withFetchWord (s : State) (nbits w : Nat) :
    step (s.withFetchWord nbits w) = runWord (tableWord nbits w) s := by
  rfl

end Sys2Proof.Machine
end

