-- ==== Sys2Proof/Tests/Slice0.lean ====
section
/-! SUPPORT. Tests whose expected results come from the spec (95_test_vectors.md, by the vector's id, and the
worked examples of the rules), and one witness per statement that has hypotheses. -/

namespace Sys2Proof.Tests

open Sys2Proof Sys2Proof.Machine Sys2Proof.Config

/-! ## WellFormed: an ill-formed term for each check -/

theorem test_wellFormed_largest_operands : (Instr.setdigit 255 255 255 true).wellFormed = true := by decide
theorem test_illFormed_setled_row : (Instr.setled 256 0).wellFormed = false := by decide
theorem test_illFormed_setled_col : (Instr.setled 0 256).wellFormed = false := by decide
theorem test_illFormed_clrled_row : (Instr.clrled 256 0).wellFormed = false := by decide
theorem test_illFormed_clrled_col : (Instr.clrled 0 256).wellFormed = false := by decide
theorem test_illFormed_tglled_row : (Instr.tglled 256 0).wellFormed = false := by decide
theorem test_illFormed_tglled_col : (Instr.tglled 0 256).wellFormed = false := by decide
theorem test_illFormed_isledon_row : (Instr.isledon 256 0).wellFormed = false := by decide
theorem test_illFormed_isledon_col : (Instr.isledon 0 256).wellFormed = false := by decide
theorem test_illFormed_setdigit_row : (Instr.setdigit 256 0 0 false).wellFormed = false := by decide
theorem test_illFormed_setdigit_col0 : (Instr.setdigit 0 256 0 false).wellFormed = false := by decide
theorem test_illFormed_setdigit_glyph : (Instr.setdigit 0 0 256 false).wellFormed = false := by decide
theorem test_illFormed_setblink_each :
    [Instr.setblink 256 0 0, .setblink 0 256 0, .setblink 0 0 256].map Instr.wellFormed = [false, false, false] := by
  decide
theorem test_illFormed_clrblink_each :
    [Instr.clrblink 256 0 0, .clrblink 0 256 0, .clrblink 0 0 256].map Instr.wellFormed = [false, false, false] := by
  decide
theorem test_illFormed_setdigblink_each :
    [Instr.setdigblink 256 0 true 0, .setdigblink 0 256 true 0, .setdigblink 0 0 true 256].map Instr.wellFormed
      = [false, false, false] := by decide
theorem test_illFormed_clrdigblink_each :
    [Instr.clrdigblink 256 0 true 0, .clrdigblink 0 256 true 0, .clrdigblink 0 0 true 256].map Instr.wellFormed
      = [false, false, false] := by decide
theorem test_illFormed_qryblink_each :
    [Instr.qryblink 256 0 0, .qryblink 0 256 0, .qryblink 0 0 256].map Instr.wellFormed = [false, false, false] := by
  decide

/-- The shape constraints of R8. -/
theorem test_shape_constraints :
    ROWS ≤ ROWSEL_W ∧ SPAN_W ≤ COLS ∧ SEG_W + 1 = SPAN_W ∧ FRAME_W = COLS + ROWSEL_W ∧ CHAIN_BITS = FRAME_W := by
  decide

/-! ## Decoding: one written-out word per operation, from R93 and the vectors' words -/

/-- E2. -/
theorem test_decode_setled : decode 0x10071F00#32 = .ok (.setled 7 31) := by decide
/-- E4. -/
theorem test_decode_clrled : decode 0x20031000#32 = .ok (.clrled 3 16) := by decide
/-- E10. -/
theorem test_decode_tglled : decode 0x3000FF00#32 = .ok (.tglled 0 255) := by decide
/-- E14. -/
theorem test_decode_isledon : decode 0x40020900#32 = .ok (.isledon 2 9) := by decide
/-- G3. -/
theorem test_decode_setdigit : decode 0x51001808#32 = .ok (.setdigit 0 24 8 true) := by decide
/-- B2. -/
theorem test_decode_setblink : decode 0x60001F01#32 = .ok (.setblink 0 31 1) := by decide
/-- S2. -/
theorem test_decode_clrblink : decode 0x70080001#32 = .ok (.clrblink 8 0 1) := by decide
/-- B10. -/
theorem test_decode_setdigblink : decode 0x81001801#32 = .ok (.setdigblink 0 24 true 1) := by decide
/-- B13. -/
theorem test_decode_clrdigblink : decode 0x90001801#32 = .ok (.clrdigblink 0 24 false 1) := by decide
/-- B22. -/
theorem test_decode_qryblink : decode 0xA0080001#32 = .ok (.qryblink 8 0 1) := by decide
/-- X4. -/
theorem test_decode_refresh : decode 0xB0000000#32 = .ok .refresh := by decide
/-- I1 to I3. -/
theorem test_decode_reserved_op :
    [decode 0x00000000#32, decode 0xC0000000#32, decode 0xF0000000#32]
      = [.error .reservedOp, .error .reservedOp, .error .reservedOp] := by decide
/-- I4, I11. -/
theorem test_decode_reserved_bits :
    [decode 0x12000000#32, decode 0x58020837#32] = [.error .reservedBits, .error .reservedBits] := by decide
/-- I6 to I8, I10. -/
theorem test_decode_unused_flag :
    [decode 0x41000000#32, decode 0x61000000#32, decode 0xA1000000#32, decode 0xB1000000#32]
      = [.error .unusedFlag, .error .unusedFlag, .error .unusedFlag, .error .unusedFlag] := by decide
/-- I5, I9. -/
theorem test_decode_unused_operands :
    [decode 0x10000001#32, decode 0xB0000100#32] = [.error .unusedArg, .error .unusedPosition] := by decide
/-- R100's form of SETDIGIT, the source's end-to-end word. -/
theorem test_encode_setdigit : encode (.setdigit 2 8 0x37 false) = 0x50020837#32 := by decide
/-- The host's reading of a row of the opcode table. -/
theorem test_decodeTableWord_refresh : decodeTableWord 32 0xB0000000 = some .refresh := by decide

/-! ## One step per test -/

/-- The state after one operation. -/
def after (i : Instr) (s : State) : State :=
  match exec i s with
  | .next t => t
  | .fault _ => s
  | .refused _ => s

/-- Reset with row r of `L` at w. -/
def withRow (r : Nat) (w : Row) : State := State.reset.withL (setRow emptyGrid r w)

/-- Reset with row 0 of class k's mask at w. -/
def withMember (k : Nat) (w : Row) : State := State.reset.withMask k (setRow emptyGrid 0 w)

/-- One row of the REFRESH vectors of 2.5: row 0 of `L`, `M[0]`, `M[1]`, then `PH`, `T0`, `DUR`, now. -/
def blinking (l m0 m1 : Row) (ph : Vector Phase 2) (t0 dur : Vector Time 2) (now : Time) : State :=
  { ((State.reset.withL (setRow emptyGrid 0 l)).withMask 0 (setRow emptyGrid 0 m0)).withMask 1 (setRow emptyGrid 0 m1)
    with PH := ph, T0 := t0, DUR := dur, NOW := now }

/-- E2. -/
theorem test_setled_last_position : rowOf (after (.setled 7 31) State.reset).L 7 = 0x80000000#32 := by decide
/-- E8. -/
theorem test_setled_row_out_of_range :
    (after (.setled 8 0) (withRow 0 5#32)).L = (withRow 0 5#32).L ∧ (after (.setled 8 0) (withRow 0 5#32)).result = some 0x00#8 := by
  decide
/-- E4. -/
theorem test_clrled_one_bit_only : rowOf (after (.clrled 3 16) (withRow 3 0xFFFFFFFF#32)).L 3 = 0xFFFEFFFF#32 := by
  decide
/-- E6. -/
theorem test_tglled_lit : rowOf (after (.tglled 5 8) (withRow 5 0x0000FF00#32)).L 5 = 0x0000FE00#32 := by decide
/-- E7. -/
theorem test_tglled_unlit : rowOf (after (.tglled 5 8) (withRow 5 0x0000FE00#32)).L 5 = 0x0000FF00#32 := by decide
/-- E14. -/
theorem test_isledon_inside_span : (after (.isledon 2 9) (withRow 2 0x00000700#32)).result = some 0x01#8 := by decide
/-- E13. -/
theorem test_isledon_out_of_range : (after (.isledon 9 9) State.reset).result = some 0x00#8 := by decide
/-- G7. -/
theorem test_setdigit_keeps_other_bits :
    rowOf (after (.setdigit 0 12 26 true) (withRow 0 0x12345678#32)).L 0 = 0x123C0678#32 := by decide
/-- G11. -/
theorem test_setdigit_sum_does_not_wrap : (after (.setdigit 0 250 8 false) State.reset).result = some 0x00#8 := by
  decide
/-- F2, F5, F8, F10, F11, F14. -/
theorem test_fontLookup :
    [0x37, 0x39, 0x2F, 0x41, 0xFF, 0x1A].map fontLookup = [0x07#7, 0x6F#7, 0x08#7, 0x08#7, 0x08#7, 0x40#7] := by decide
/-- R122: glyph names at both ends of the table and in the middle. -/
theorem test_font_by_name : [FONT[G_0], FONT[G_SPACE], FONT[G_A], FONT[G_E], FONT[G_c], FONT[G_ERROR]]
    = [0x3F#7, 0x00#7, 0x77#7, 0x79#7, 0x58#7, 0x08#7] := by decide
/-- B2. -/
theorem test_setblink_slow : rowOf ((after (.setblink 0 31 1) State.reset).maskOf 1) 0 = 0x80000000#32 := by decide
/-- B4. -/
theorem test_setblink_class_out_of_range :
    (after (.setblink 0 0 2) State.reset).result = some 0x00#8 ∧ (after (.setblink 0 0 2) State.reset).M = State.reset.M := by
  decide
/-- B7. -/
theorem test_clrblink_member : rowOf ((after (.clrblink 0 0 0) (withMember 0 1#32)).maskOf 0) 0 = 0#32 := by decide
/-- B12. -/
theorem test_setdigblink_leaves_point :
    rowOf ((after (.setdigblink 0 24 false 1) (withMember 1 0x80000000#32)).maskOf 1) 0 = 0xFF000000#32 := by decide
/-- B15. -/
theorem test_setdigblink_checks_eight_columns :
    (after (.setdigblink 0 25 false 0) State.reset).result = some 0x00#8 := by decide
/-- B13. -/
theorem test_clrdigblink_leaves_point :
    rowOf ((after (.clrdigblink 0 24 false 1) (withMember 1 0xFF000000#32)).maskOf 1) 0 = 0x80000000#32 := by decide
/-- B18, B20. -/
theorem test_qryblink_own_class_only :
    (after (.qryblink 0 31 1) (withMember 1 0x80000000#32)).result = some 0x01#8
      ∧ (after (.qryblink 0 31 0) (withMember 1 0x80000000#32)).result = some 0x00#8 := by decide
/-- B22. -/
theorem test_qryblink_invalid : (after (.qryblink 8 0 1) State.reset).result = some 0xFF#8 := by decide

/-- T15: elapsed exactly the duration does not flip; the other class flips. -/
def vectorT15 : State :=
  blinking 2#32 0#32 2#32 #v[.bright, .dark] #v[0#32, 100#32] #v[1000#32, 6000#32] 6100#32

theorem test_refresh_T15 :
    (after .refresh vectorT15).PH = #v[.dark, .dark] ∧ (after .refresh vectorT15).T0 = #v[6100#32, 100#32]
      ∧ (after .refresh vectorT15).DUR = #v[1000#32, 6000#32] ∧ rowOf (after .refresh vectorT15).P 0 = 0#32 := by
  decide +kernel

/-- T12: across the counter's wrap. -/
def vectorT12 : State :=
  blinking 1#32 1#32 0#32 #v[.bright, .bright] #v[0xFFFFFF00#32, 0xFFFFFF00#32] #v[1000#32, 2000#32] 0x000002E9#32

theorem test_refresh_T12 :
    (after .refresh vectorT12).PH = #v[.dark, .bright]
      ∧ (after .refresh vectorT12).T0 = #v[0x000002E9#32, 0xFFFFFF00#32] := by
  decide +kernel

/-- The DATA levels of row 2 of P1, in the order sent (X2). -/
theorem test_row_bits_on_the_wire :
    (bitsDown (rowFrame (setRow emptyGrid 2 0x00000700#32) 2) 40).map (fun b => if b then 1 else 0)
      = [0,0,0,0, 0,0,0,0, 0,0,0,0, 0,0,0,0, 0,0,0,0, 0,1,1,1, 0,0,0,0, 0,0,0,0, 0,0,0,0, 0,1,0,0] := by decide

/-- X4: levels and latch after a first refresh of an empty grid. -/
theorem test_refresh_lines_on_exit :
    (after .refresh State.reset).PIN = ⟨false, false, true, false⟩
      ∧ (after .refresh State.reset).sink.LATCH = 0x0000000080#40 := by
  decide +kernel

/-- I1, at the command port. -/
theorem test_step_illegal_word :
    (match step (State.reset.withFetchWord 32 0) with
      | .next t => t.result
      | .fault _ => none
      | .refused _ => none) = some 0xFE#8 := by decide

/-! ## Witnesses: a state and operands that meet a statement's hypotheses together -/

theorem reset_inv : Inv State.reset :=
  ⟨by decide, rfl, .inl rfl, fun _ => by decide, fun h => (by cases h), .inl rfl⟩

/-- The invariant, in a state where no refresh has run, with a step. -/
theorem witness_EveryStepKeepsTheStepInvariant :
    ∃ s t : State, Inv s ∧ s.inputs ≠ [] ∧ step s = .next t :=
  ⟨offerWord 0x10000000#32 State.reset, _,
    ⟨by decide, rfl, .inl rfl, fun _ => by decide, fun h => (by cases h), .inl rfl⟩, by decide, rfl⟩

/-- The invariant, in a state where a refresh has run. -/
theorem witness_Inv_after_refresh : ∃ s : State, s.PIN.stb = true ∧ Inv s := by
  refine ⟨{ State.reset with
    PIN := ⟨false, false, true, false⟩, sink := ⟨rowFrame emptyGrid 7, rowFrame emptyGrid 7⟩, result := some OK }, rfl, ?_⟩
  exact ⟨by decide, rfl, .inl rfl, fun h => (by cases h), fun _ => by decide, .inr ⟨OK, by decide, rfl⟩⟩

theorem witness_DecodeOfEncodeGivesTheInstructionBack : ∃ i : Instr, i.WellFormed :=
  ⟨.setdigit 255 255 255 true, by decide⟩

theorem witness_EncodeOfDecodeGivesTheWordBack : ∃ w i, decode w = .ok i := ⟨0x910018FF#32, .clrdigblink 0 24 true 255, by decide⟩

theorem witness_WordSpellsOperationIffItMatchesItsRow :
    ∃ (w : Word) (a b : OpRow), a ∈ opTable ∧ b ∈ opTable ∧ w &&& a.mask = a.value ∧ w &&& b.mask = b.value :=
  ⟨0x10071F00#32, ⟨"SETLED", 0xFF0000FF#32, 0x10000000#32⟩, ⟨"SETLED", 0xFF0000FF#32, 0x10000000#32⟩,
    by decide, by decide, by decide, by decide⟩

theorem witness_StepRunsTheNextOutsideMove :
    (∃ (s : State) (rest : List Input) (w : Word) (i : Instr), s.inputs = .issue w :: rest ∧ decode w = .ok i)
      ∧ (∃ (s : State) (rest : List Input) (w : Word) (e : Illegal), s.inputs = .issue w :: rest ∧ decode w = .error e)
      ∧ (∃ (s : State) (rest : List Input) (d : Time), s.inputs = .tick d :: rest)
      ∧ ∃ s : State, s.inputs = [] :=
  ⟨⟨offerWord 0xB0000000#32 State.reset, [], _, .refresh, rfl, by decide⟩,
    ⟨offerWord 0xC0000000#32 State.reset, [], _, .reservedOp, rfl, by decide⟩,
    ⟨{ State.reset with inputs := [.tick 1#32] }, [], _, rfl⟩, ⟨State.reset, rfl⟩⟩

/-- Every kind of rejection at its boundary (S2, B15, B21). -/
theorem witness_RejectedOperationWritesNoState :
    ¬Accepted (.setled 8 0) ∧ ¬Accepted (.clrled 0 32) ∧ ¬Accepted (.tglled 255 255) ∧ ¬Accepted (.isledon 8 31)
      ∧ ¬Accepted (.setdigit 0 25 8 true) ∧ ¬Accepted (.setblink 0 0 2) ∧ ¬Accepted (.clrblink 8 0 1)
      ∧ ¬Accepted (.setdigblink 0 25 false 0) ∧ ¬Accepted (.clrdigblink 0 24 true 2) ∧ ¬Accepted (.qryblink 0 32 0) := by
  simp only [Accepted]
  decide

theorem witness_SingleLedWritesSetClearOrToggleOneBit : ValidPos 7 31 ∧ ¬ValidPos 8 0 ∧ ¬ValidPos 0 32 := by decide

theorem witness_IsledonAnswersTheLogicalBit : (∃ r c, ValidPos r c) ∧ ∃ r c, ¬ValidPos r c :=
  ⟨⟨7, 31, by decide⟩, ⟨8, 0, by decide⟩⟩

theorem witness_SetdigitOverwritesExactlyItsSpan : ValidSpan 7 24 ∧ ¬ValidSpan 7 25 := by decide

theorem witness_DigitReadsBackThroughIsledon : ValidSpan 7 24 ∧ 7 < 8 := by decide

theorem witness_BlinkWritesOneBitOfOneClass : ValidPos 7 31 ∧ ValidClass 1 ∧ ¬ValidClass 2 := by decide

theorem witness_DigitBlinkWritesSegmentsAndFlaggedPoint : ValidSpan 7 24 ∧ ValidClass 1 := by decide

theorem witness_QryblinkAnswersThreeWays :
    (ValidPos 7 31 ∧ ValidClass 1) ∧ ¬(ValidPos 8 0 ∧ ValidClass 1) ∧ ¬(ValidPos 0 0 ∧ ValidClass 2) := by decide

theorem witness_FontLookupFollowsItsPolicy :
    (NGLYPH ≤ 30 ∧ (30 < 0x30 ∨ 0x39 < 30)) ∧ (NGLYPH ≤ 0x3A ∧ (0x3A < 0x30 ∨ 0x39 < 0x3A)) := by decide

/-- T1 (does not flip) and T2 (flips). -/
def vectorT1 (now : Time) : State :=
  blinking 1#32 1#32 0#32 #v[.bright, .bright] #v[0#32, 0#32] #v[1000#32, 2000#32] now

theorem witness_RefreshFlipsExactlyTheExpiredClasses :
    (anyBlinkActive (vectorT1 1001#32).M = true
        ∧ (vectorT1 1001#32).DUR[NORMAL] < (vectorT1 1001#32).NOW - (vectorT1 1001#32).T0[NORMAL]
        ∧ (vectorT1 1001#32).PH[NORMAL] = Phase.bright)
      ∧ (anyBlinkActive vectorT15.M = true
        ∧ { vectorT15 with NOW := 6101#32 }.DUR[SLOW] < { vectorT15 with NOW := 6101#32 }.NOW - vectorT15.T0[SLOW]
        ∧ vectorT15.PH[SLOW] = Phase.dark)
      ∧ ¬(anyBlinkActive (vectorT1 1000#32).M = true
        ∧ (vectorT1 1000#32).DUR[NORMAL] < (vectorT1 1000#32).NOW - (vectorT1 1000#32).T0[NORMAL]) := by
  decide

theorem witness_NoMemberMeansPhysicalEqualsLogical :
    ∃ s : State, s.PH[NORMAL] = Phase.dark ∧ ∀ (k : ClassIx) (r c : Nat), bitOf s.M[k] r c = false := by
  refine ⟨{ withRow 0 3#32 with PH := #v[.dark, .dark] }, rfl, fun k r c => ?_⟩
  have h : ({ withRow 0 3#32 with PH := #v[.dark, .dark] } : State).M[k] = emptyGrid := by
    revert k
    decide
  rw [h, bitOf_emptyGrid]

/-- The three clauses: two states that differ in the other class; a position outside a class in two phases
of it (T6 with NORMAL dark and bright); a position in both classes. -/
theorem witness_SpeedClassesDoNotInterfere :
    (∃ s s' t t' : State, s ≠ s' ∧ exec .refresh s = .next t ∧ exec .refresh s' = .next t' ∧ s.NOW = s'.NOW
        ∧ anyBlinkActive s.M = anyBlinkActive s'.M ∧ s.classPhase SLOW = s'.classPhase SLOW)
      ∧ (∃ s s' t t' : State, exec .refresh s = .next t ∧ exec .refresh s' = .next t' ∧ s.L = s'.L ∧ s.M = s'.M
        ∧ t.PH[SLOW] = t'.PH[SLOW] ∧ t.PH[NORMAL] ≠ t'.PH[NORMAL] ∧ bitOf s.M[NORMAL] 0 1 = false)
      ∧ ∃ s t : State, exec .refresh s = .next t ∧ bitOf s.M[NORMAL] 0 1 = true ∧ bitOf s.M[SLOW] 0 1 = true := by
  refine ⟨⟨vectorT1 1000#32, { vectorT1 1000#32 with PH := #v[.dark, .bright] }, _, _, by decide, exec_refresh _,
      exec_refresh _, rfl, rfl, rfl⟩,
    ⟨blinking 3#32 1#32 2#32 #v[.dark, .bright] #v[0#32, 0#32] #v[1000#32, 2000#32] 10#32,
      blinking 3#32 1#32 2#32 #v[.bright, .bright] #v[0#32, 0#32] #v[1000#32, 2000#32] 10#32, _, _,
      exec_refresh _, exec_refresh _, rfl, rfl, ?_, ?_, by decide⟩,
    ⟨blinking 3#32 3#32 2#32 #v[.bright, .dark] #v[0#32, 0#32] #v[1000#32, 6000#32] 10#32, _, exec_refresh _,
      by decide, by decide⟩⟩
  · simp only [refreshed_PH]
    decide +kernel
  · simp only [refreshed_PH]
    decide +kernel

theorem witness_LoneMemberBlinksOnSchedule :
    let s := vectorT1 0#32
    bitOf s.L 0 0 = true ∧ bitOf s.M[NORMAL] 0 0 = true ∧ (∀ j : ClassIx, j ≠ NORMAL → bitOf s.M[j] 0 0 = false)
      ∧ s.PH[NORMAL] = Phase.bright ∧ s.DUR[NORMAL] = BRIGHT_MS[NORMAL] ∧ s.T0[NORMAL] = s.NOW := by
  decide

/-- The clock low on entry: before any refresh (strobe low) and after one (strobe high). Witness for
RefreshSendsEveryRowMostSignificantBitFirst, RefreshLeavesTheLastRowOnTheLines and
PanelShowsTheLastRowAfterRefresh. -/
theorem witness_clock_low_before_and_after_a_refresh :
    (State.reset.PIN.clk = false ∧ State.reset.PIN.stb = false)
      ∧ ∃ s : State, s.PIN.clk = false ∧ s.PIN.stb = true :=
  ⟨⟨rfl, rfl⟩, ⟨{ State.reset with PIN := ⟨false, false, true, false⟩ }, rfl, rfl⟩⟩

theorem witness_SendingARowLatchesItsFrame : ∃ w : Wires, w.PIN.clk = false ∧ w.PIN.stb = true :=
  ⟨⟨⟨false, true, true, false⟩, ⟨5#40, 6#40⟩⟩, rfl, rfl⟩

theorem witness_OnlyRefreshPublishes :
    ∃ (i : Instr) (s t : State), i ≠ .refresh ∧ exec i s = .next t :=
  ⟨.setled 0 0, State.reset, _, by decide, exec_setled 0 0 _⟩

theorem witness_OperationsNeverWriteCounterOrOutputEnable :
    ∃ (s t : State), exec .refresh s = .next t := ⟨State.reset, _, exec_refresh _⟩

theorem witness_LogicalGridAndMasksHaveTheirOwnWriters :
    ∃ (i : Instr) (s t : State), exec i s = .next t
      ∧ i.mnemonic ≠ "SETLED" ∧ i.mnemonic ≠ "CLRLED" ∧ i.mnemonic ≠ "TGLLED" ∧ i.mnemonic ≠ "SETDIGIT"
      ∧ i.mnemonic ≠ "SETBLINK" ∧ i.mnemonic ≠ "CLRBLINK" ∧ i.mnemonic ≠ "SETDIGBLINK" ∧ i.mnemonic ≠ "CLRDIGBLINK" :=
  ⟨.refresh, State.reset, _, exec_refresh _, by decide⟩

/-- Two states that differ in what the host cannot observe, and two that differ in one of `L` and `M`. -/
theorem witness_ResultsRevealOnlyLogicalGridAndMasks :
    (∃ s s' t t' : State, s ≠ s' ∧ exec (.isledon 0 0) s = .next t ∧ exec (.isledon 0 0) s' = .next t'
        ∧ s.L = s'.L ∧ s.M = s'.M)
      ∧ (∃ s s' t t' : State, exec (.setled 0 0) s = .next t ∧ exec (.setled 0 0) s' = .next t' ∧ s.L = s'.L ∧ s.M ≠ s'.M)
      ∧ ∃ s s' t t' : State, exec (.setblink 0 0 0) s = .next t ∧ exec (.setblink 0 0 0) s' = .next t'
        ∧ s.M = s'.M ∧ s.L ≠ s'.L :=
  ⟨⟨State.reset, { State.reset with PH := #v[.dark, .dark] }, _, _, by decide, exec_isledon 0 0 _, exec_isledon 0 0 _,
      rfl, rfl⟩,
    ⟨State.reset, withMember 0 1#32, _, _, exec_setled 0 0 _, exec_setled 0 0 _, rfl, by decide⟩,
    ⟨State.reset, withRow 0 1#32, _, _, exec_setblink 0 0 0 _, exec_setblink 0 0 0 _, rfl, by decide⟩⟩

theorem witness_QueriesAreSilentAndSevenOperationsIdempotent :
    (∃ s t : State, exec (.isledon 7 31) s = .next t) ∧ (∃ s t : State, exec (.qryblink 8 0 0) s = .next t)
      ∧ (∃ (i : Instr) (s t : State), i.mnemonic = "CLRDIGBLINK" ∧ exec i s = .next t)
      ∧ ValidPos 7 31 ∧ ∃ s t : State, exec .refresh s = .next t :=
  ⟨⟨State.reset, _, exec_isledon 7 31 _⟩, ⟨State.reset, _, exec_qryblink 8 0 0 _⟩,
    ⟨.clrdigblink 0 24 true 1, State.reset, _, rfl, exec_clrdigblink 0 24 true 1 _⟩, by decide,
    ⟨State.reset, _, exec_refresh _⟩⟩

end Sys2Proof.Tests
end

section
/-! PROOFS. Writing and reading the same columns of a grid again, and writing disjoint columns (R13). -/

namespace Sys2Proof.Machine

open Sys2Proof.Config

/-- The later of two writes of the same columns wins. -/
theorem memWrite_memWrite_same {n : Nat} (G : Grid) (r c : Nat) (v w : BitVec n) (hn : n ≤ 32) :
    memWrite (memWrite G r c v) r c w = memWrite G r c w := by
  apply grid_ext
  intro r' c' _ _
  simp only [bitOf_memWrite _ _ _ _ hn]
  split <;> rfl

/-- Writes of disjoint columns of one row commute. -/
theorem memWrite_comm_of_disjoint {m n : Nat} (G : Grid) (r c d : Nat) (v : BitVec m) (w : BitVec n) (hm : m ≤ 32)
    (hn : n ≤ 32) (hd : c + m ≤ d) :
    memWrite (memWrite G r c v) r d w = memWrite (memWrite G r d w) r c v := by
  apply grid_ext
  intro r' c' _ _
  simp only [bitOf_memWrite _ _ _ _ hm, bitOf_memWrite _ _ _ _ hn]
  by_cases hv : c' < c + m
  · have hw : ¬d ≤ c' := by omega
    simp [hw]
  · simp [hv]

/-- Columns just written read back as the value written. -/
theorem memRead_memWrite_same {n : Nat} (G : Grid) {r c : Nat} (v : BitVec n) (hr : r < ROWS) (hc : c + n ≤ COLS) :
    memRead (memWrite G r c v) r c n = v := by
  apply BitVec.eq_of_getLsbD_eq
  intro i hi
  have hi' : c + i < COLS := by omega
  rw [getLsbD_memRead, bitOf_memWrite _ _ _ _ (le_trans (Nat.le_add_left n c) hc)]
  simp [hi, hr, hi']

/-- Writing what is read changes nothing. -/
theorem memWrite_memRead_same (G : Grid) (r c : Nat) {n : Nat} (hn : n ≤ 32) :
    memWrite G r c (memRead G r c n) = G := by
  apply grid_ext
  intro r' c' _ _
  rw [bitOf_memWrite _ _ _ _ hn]
  split
  · next h =>
    obtain ⟨rfl, -, hc, hcn, -⟩ := h
    rw [getLsbD_memRead, Nat.add_sub_cancel' hc]
    simp [show c' - c < n by omega]
  · rfl

/-- A span write done again writes nothing new: the point is not one of the seven segment columns. -/
theorem writeDigitMask_writeDigitMask (G : Grid) (row col0 : Nat) (dp : Bool) (seg : BitVec 7) (pt : BitVec 1) :
    writeDigitMask (writeDigitMask G row col0 dp seg pt) row col0 dp seg pt = writeDigitMask G row col0 dp seg pt := by
  have seg_again (H : Grid) : memWrite (memWrite H row col0 seg) row col0 seg = memWrite H row col0 seg :=
    memWrite_memWrite_same H row col0 seg seg (by omega)
  cases dp
  · exact seg_again G
  · change memWrite (memWrite (memWrite (memWrite G row col0 seg) row (col0 + 7) pt) row col0 seg) row (col0 + 7) pt
      = memWrite (memWrite G row col0 seg) row (col0 + 7) pt
    rw [← memWrite_comm_of_disjoint _ row col0 (col0 + 7) seg pt (by omega) (by omega) le_rfl, seg_again,
      memWrite_memWrite_same _ _ _ _ _ (by omega)]

end Sys2Proof.Machine
end

section
/-! PROOFS. Which operations have a side effect and which are idempotent (R68). -/

namespace Sys2Proof.Machine

open Sys2Proof.Config

/-- Writing a mask and completing do not interfere. -/
theorem State.withMask_complete (s : State) (r : Byte) (ev : List LineEvent) (k : Nat) (G : Grid) :
    (s.complete r ev).withMask k G = (s.withMask k G).complete r ev := rfl

section
variable {op : State → Host.Outcome State Fault Refusal} {p : Prop} [Decidable p] {s t : State}

/-- A checked write of `L` by an idempotent function of it, done again on the state it left, gives that
very state. -/
theorem logicalWrite_again (g : Grid → Grid) (hg : ∀ G, g (g G) = g G)
    (hop : ∀ s, op s = .next (if p then (s.withL (g s.L)).complete OK [] else s.complete FAIL []))
    (h : op s = .next t) : op t = .next t := by
  rw [hop] at h ⊢
  obtain rfl := Host.Outcome.next.inj h
  by_cases hp : p
  · simp only [if_pos hp, State.complete_L, State.withL_L, hg]
    rfl
  · simp only [if_neg hp]
    rfl

/-- The same for one class's mask, when the check covers the class. -/
theorem maskWrite_again {k : Nat} (g : Grid → Grid) (hk : p → ValidClass k) (hg : ∀ G, g (g G) = g G)
    (hop : ∀ s, op s = .next (if p then (s.withMask k (g (s.maskOf k))).complete OK [] else s.complete FAIL []))
    (h : op s = .next t) : op t = .next t := by
  rw [hop] at h ⊢
  obtain rfl := Host.Outcome.next.inj h
  by_cases hp : p
  · simp only [if_pos hp, State.maskOf_complete, State.maskOf_withMask_same _ _ (hk hp), hg, State.withMask_complete,
      State.withMask_withMask]
    rfl
  · simp only [if_neg hp]
    rfl

end

/-- ISLEDON and QRYBLINK answer on the result port and clear the line port; nothing else changes. -/
theorem query_frame {s t : State} {row col k : Nat}
    (h : exec (.isledon row col) s = .next t ∨ exec (.qryblink row col k) s = .next t) :
    t = { s with result := t.result, events := [] } := by
  rw [exec_isledon, exec_qryblink] at h
  rcases h with h | h
  · obtain rfl := Host.Outcome.next.inj h
    rfl
  · obtain rfl := Host.Outcome.next.inj h
    rfl

/-- The seven idempotent operations, by what each writes. -/
theorem exec_again {i : Instr} {s t : State}
    (hi : i.mnemonic = "SETLED" ∨ i.mnemonic = "CLRLED" ∨ i.mnemonic = "SETDIGIT" ∨ i.mnemonic = "SETBLINK"
      ∨ i.mnemonic = "CLRBLINK" ∨ i.mnemonic = "SETDIGBLINK" ∨ i.mnemonic = "CLRDIGBLINK")
    (h : exec i s = .next t) : exec i t = .next t := by
  cases i with
  | setled row col =>
    exact logicalWrite_again (memWrite · row col 1#1) (memWrite_memWrite_same · row col _ _ (by omega))
      (exec_setled row col) h
  | clrled row col =>
    exact logicalWrite_again (memWrite · row col 0#1) (memWrite_memWrite_same · row col _ _ (by omega))
      (exec_clrled row col) h
  | setdigit row col0 glyph dp =>
    exact logicalWrite_again (memWrite · row col0 (digitByte glyph dp))
      (memWrite_memWrite_same · row col0 _ _ (by omega)) (exec_setdigit row col0 glyph dp) h
  | setblink row col k =>
    exact maskWrite_again (memWrite · row col 1#1) And.right (memWrite_memWrite_same · row col _ _ (by omega))
      (exec_setblink row col k) h
  | clrblink row col k =>
    exact maskWrite_again (memWrite · row col 0#1) And.right (memWrite_memWrite_same · row col _ _ (by omega))
      (exec_clrblink row col k) h
  | setdigblink row col0 dp k =>
    exact maskWrite_again (writeDigitMask · row col0 dp 0x7F#7 1#1) And.right
      (writeDigitMask_writeDigitMask · row col0 dp 0x7F#7 1#1) (exec_setdigblink row col0 dp k) h
  | clrdigblink row col0 dp k =>
    exact maskWrite_again (writeDigitMask · row col0 dp 0x00#7 0#1) And.right
      (writeDigitMask_writeDigitMask · row col0 dp 0x00#7 0#1) (exec_clrdigblink row col0 dp k) h
  | tglled | isledon | qryblink | refresh => simp [Instr.mnemonic] at hi

/-- The grid with the bit at (row, col) inverted (R132). -/
def toggleBit (G : Grid) (row col : Nat) : Grid := memWrite G row col (1#1 ^^^ memRead G row col 1)

/-- A toggle of a valid position completes with that bit of `L` inverted. -/
theorem exec_tglled_of_valid {row col : Nat} (h : ValidPos row col) (s : State) :
    exec (.tglled row col) s = .next ((s.withL (toggleBit s.L row col)).complete OK []) := by
  rw [exec_tglled, if_pos h, toggleBit]

/-- The bit toggled reads back inverted. -/
theorem memRead_toggleBit (G : Grid) {row col : Nat} (h : ValidPos row col) :
    memRead (toggleBit G row col) row col 1 = 1#1 ^^^ memRead G row col 1 := by
  obtain ⟨hr, hc⟩ := h
  exact memRead_memWrite_same G _ hr hc

/-- A second toggle undoes the first. -/
theorem toggleBit_toggleBit (G : Grid) {row col : Nat} (h : ValidPos row col) :
    toggleBit (toggleBit G row col) row col = G := by
  have hbit : 1#1 ^^^ (1#1 ^^^ memRead G row col 1) = memRead G row col 1 := by
    rw [← BitVec.xor_assoc, BitVec.xor_self, BitVec.zero_xor]
  calc toggleBit (toggleBit G row col) row col
      = memWrite (toggleBit G row col) row col (memRead G row col 1) := by
        rw [toggleBit, memRead_toggleBit G h, hbit]
    _ = memWrite G row col (memRead G row col 1) := memWrite_memWrite_same G row col _ _ (by omega)
    _ = G := memWrite_memRead_same G row col (by omega)

/-- One toggle changes the grid. -/
theorem toggleBit_ne (G : Grid) {row col : Nat} (h : ValidPos row col) : toggleBit G row col ≠ G := by
  intro he
  have hbit : ∀ b : BitVec 1, 1#1 ^^^ b ≠ b := by decide
  have hread := memRead_toggleBit G h
  rw [he] at hread
  exact hbit _ hread.symm

/-- Every transmission begins with the strobe of row 0 (R202). -/
theorem transmitEvents_ne_nil (P : Grid) : transmitEvents P ≠ [] := by
  rw [transmitEvents, Ne, List.flatMap_eq_nil_iff]
  intro h
  exact List.cons_ne_nil _ _ (h 0 (List.mem_range.mpr (by decide)))

/-- A refresh flips a class whose phase has run longer than its duration (R172). -/
theorem classPhase_refreshed_of_expired {s : State} {k : ClassIx} (hany : anyBlinkActive s.M = true)
    (hexp : s.DUR[k] < elapsed s.NOW s.T0[k]) :
    (refreshed s).classPhase k = ⟨flipPhase s.PH[k], s.NOW, durationOf k (flipPhase s.PH[k])⟩ := by
  have hphase : (refreshed s).classPhase k = (afterPhases s).classPhase k := by simp [State.classPhase]
  rw [hphase, afterPhases_classPhase, if_pos hany, updateClass, State.classPhase, if_pos hexp]

/-- Reset with one member of SLOW, 2001 ms into a bright phase of 2000 ms: its next refresh turns SLOW
dark, and a refresh 6001 ms later turns it bright again. -/
def slowMemberExpired : State :=
  { State.reset.withMask 1 (setRow emptyGrid 0 1#32) with NOW := 2001#32 }

/-- The same state after a refresh, 6001 ms later. -/
def slowMemberExpiredAgain : State :=
  { refreshed slowMemberExpired with NOW := (refreshed slowMemberExpired).NOW + 6001#32 }

theorem classPhase_refreshed_slowMemberExpired :
    (refreshed slowMemberExpired).classPhase SLOW = ⟨.dark, 2001#32, 6000#32⟩ :=
  classPhase_refreshed_of_expired (by decide) (by decide)

theorem classPhase_refreshed_slowMemberExpiredAgain :
    (refreshed slowMemberExpiredAgain).classPhase SLOW = ⟨.bright, 8002#32, 2000#32⟩ := by
  obtain ⟨hph, ht0, hdur⟩ := ClassPhase.mk.inj classPhase_refreshed_slowMemberExpired
  have hnow : slowMemberExpiredAgain.NOW = 8002#32 := by
    simp [slowMemberExpiredAgain, slowMemberExpired]
  have hany : anyBlinkActive slowMemberExpiredAgain.M = true := by
    simp only [slowMemberExpiredAgain, refreshed_M]
    decide
  rw [classPhase_refreshed_of_expired hany]
  · rw [hnow, show slowMemberExpiredAgain.PH[SLOW] = .dark from hph]
    rfl
  · rw [hnow, show slowMemberExpiredAgain.DUR[SLOW] = 6000#32 from hdur,
      show slowMemberExpiredAgain.T0[SLOW] = 2001#32 from ht0]
    decide

/-- REFRESH is not idempotent: the second of two flips SLOW back, in all three phase registers. -/
theorem refresh_changes_phases_again :
    (refreshed slowMemberExpiredAgain).PH ≠ (refreshed slowMemberExpired).PH
      ∧ (refreshed slowMemberExpiredAgain).T0 ≠ (refreshed slowMemberExpired).T0
      ∧ (refreshed slowMemberExpiredAgain).DUR ≠ (refreshed slowMemberExpired).DUR := by
  obtain ⟨hph, ht0, hdur⟩ := ClassPhase.mk.inj classPhase_refreshed_slowMemberExpired
  obtain ⟨hph', ht0', hdur'⟩ := ClassPhase.mk.inj classPhase_refreshed_slowMemberExpiredAgain
  refine ⟨fun h => ?_, fun h => ?_, fun h => ?_⟩
  · rw [h, hph] at hph'
    exact absurd hph' (by decide)
  · rw [h, ht0] at ht0'
    exact absurd ht0' (by decide)
  · rw [h, hdur] at hdur'
    exact absurd hdur' (by decide)

/-- Settles O35: the queries by their frame, the seven operations because each writes by an idempotent
function of a grid, TGLLED because inverting a bit is an involution without fixed point, and REFRESH by a
SLOW member that two refreshes flip twice. -/
theorem queriesAreSilentAndSevenOperationsIdempotent :
    Obligations.QueriesAreSilentAndSevenOperationsIdempotent := by
  refine ⟨fun s t row col k h => query_frame h, fun i s t hi h => exec_again hi h, fun s row col hv => ?_,
    fun s t h => ?_, ?_⟩
  · refine ⟨_, _, exec_tglled_of_valid hv s, exec_tglled_of_valid hv _, ?_, ?_⟩
    · simp only [State.complete_L, State.withL_L, toggleBit_toggleBit _ hv]
      rfl
    · simp only [State.complete_L, State.withL_L]
      exact toggleBit_ne _ hv
  · obtain rfl := Host.Outcome.next.inj h
    rw [refreshed_events]
    exact transmitEvents_ne_nil _
  · exact ⟨slowMemberExpired, _, _, 6001#32, exec_refresh _, exec_refresh _, refresh_changes_phases_again⟩

end Sys2Proof.Machine
end

section
/-! PROOFS. REFRESH with no member in any class: no phase update, and a composition that copies `L`
(R171, R173, R175, R178). -/

namespace Sys2Proof.Machine

open Sys2Proof.Config

/-- Masks with no member are the masks of reset. -/
theorem masks_eq_replicate_of_no_member {M : Vector Grid NCLASS}
    (h : ∀ (k : ClassIx) (r c : Nat), bitOf M[k] r c = false) : M = Vector.replicate NCLASS emptyGrid := by
  apply Vector.ext
  intro k hk
  rw [Vector.getElem_replicate]
  apply grid_ext
  intro r c _ _
  rw [bitOf_emptyGrid]
  exact h ⟨k, hk⟩ r c

/-- With no member no blink is active (R171). -/
theorem anyBlinkActive_of_no_member {M : Vector Grid NCLASS}
    (h : ∀ (k : ClassIx) (r c : Nat), bitOf M[k] r c = false) : anyBlinkActive M = false := by
  rw [masks_eq_replicate_of_no_member h]
  decide

/-- With no blink active the phase update does not run (R178). -/
theorem afterPhases_of_not_anyBlinkActive {s : State} (h : anyBlinkActive s.M = false) : afterPhases s = s := by
  simp [afterPhases, h]

/-- With no blink active the composition copies the logical grid, whatever the phases (R173). -/
theorem afterCompose_P_of_not_anyBlinkActive {s : State} (h : anyBlinkActive s.M = false) :
    (afterCompose s).P = s.L := by
  apply Vector.ext
  intro r hr
  rw [afterCompose, h, afterPhases_of_not_anyBlinkActive h]
  exact compose_P_false s ⟨r, hr⟩

/-- Settles O23: with no member the any-blink test is false, at any sample, so REFRESH skips the phase
update and copies `L`. -/
theorem noMemberMeansPhysicalEqualsLogical : Obligations.NoMemberMeansPhysicalEqualsLogical := by
  intro s now hmember
  have hany : anyBlinkActive ({ s with NOW := now } : State).M = false := anyBlinkActive_of_no_member hmember
  refine ⟨_, exec_refresh _, ?_⟩
  rw [refreshed_P, refreshed_PH, refreshed_T0, refreshed_DUR, afterCompose_P_of_not_anyBlinkActive hany,
    afterPhases_of_not_anyBlinkActive hany]
  exact ⟨rfl, rfl, rfl, rfl⟩

end Sys2Proof.Machine
end

section
/-! PROOFS. What a rejection leaves of the state (R231, R232). -/

namespace Sys2Proof.Machine

section
variable {outcome : Host.Outcome State Fault Refusal} {p : Prop} [Decidable p] {s : State}

/-- A checked write whose check fails changes the two ports alone, whatever it would have written. -/
theorem checkedWrite_of_not {performed : State} {failure : Byte}
    (ho : outcome = .next (if p then performed else s.complete failure [])) (hp : ¬p) :
    outcome = .next (untouched s failure) := by
  rw [ho, if_neg hp]
  rfl

/-- A checked query whose check fails answers its failure value, whatever it would have read. -/
theorem checkedQuery_of_not {answer failure : Byte}
    (ho : outcome = .next (s.complete (if p then answer else failure) [])) (hp : ¬p) :
    outcome = .next (untouched s failure) := by
  rw [ho, if_neg hp]
  rfl

end

/-- Settles O11: every operation but REFRESH is a write or a query checked by exactly the condition under
which R231 accepts it, and REFRESH is never rejected. -/
theorem rejectedOperationWritesNoState : Obligations.RejectedOperationWritesNoState := by
  intro i s hrej
  cases i with
  | setled row col => exact checkedWrite_of_not (exec_setled row col s) hrej
  | clrled row col => exact checkedWrite_of_not (exec_clrled row col s) hrej
  | tglled row col => exact checkedWrite_of_not (exec_tglled row col s) hrej
  | isledon row col => exact checkedQuery_of_not (exec_isledon row col s) hrej
  | setdigit row col0 glyph dp => exact checkedWrite_of_not (exec_setdigit row col0 glyph dp s) hrej
  | setblink row col k => exact checkedWrite_of_not (exec_setblink row col k s) hrej
  | clrblink row col k => exact checkedWrite_of_not (exec_clrblink row col k s) hrej
  | setdigblink row col0 dp k => exact checkedWrite_of_not (exec_setdigblink row col0 dp k s) hrej
  | clrdigblink row col0 dp k => exact checkedWrite_of_not (exec_clrdigblink row col0 dp k s) hrej
  | qryblink row col k => exact checkedQuery_of_not (exec_qryblink row col k s) hrej
  | refresh => exact absurd trivial hrej

end Sys2Proof.Machine
end

section
/-! PROOFS. The decoder and the encoder are inverse, and which words are legal (R92, R93, R96). Stated once:
a word decodes to an instruction exactly when its six fields are the instruction's. -/

namespace Sys2Proof

open Sys2Proof.Laws.Encoding

@[simp] theorem needNoFlag_eq_ok_iff (w : Word) (d : Except Illegal Instr) (i : Instr) :
    needNoFlag w d = .ok i ↔ flagField w = false ∧ d = .ok i := by
  unfold needNoFlag
  cases flagField w <;> simp

@[simp] theorem needNoArg_eq_ok_iff (w : Word) (d : Except Illegal Instr) (i : Instr) :
    needNoArg w d = .ok i ↔ argField w = 0 ∧ d = .ok i := by
  unfold needNoArg
  by_cases h : argField w = 0 <;> simp [h]

@[simp] theorem needNoPosition_eq_ok_iff (w : Word) (d : Except Illegal Instr) (i : Instr) :
    needNoPosition w d = .ok i ↔ (rowField w = 0 ∧ colField w = 0) ∧ d = .ok i := by
  unfold needNoPosition
  by_cases h : rowField w = 0 ∧ colField w = 0 <;> simp [h]

/-- The word's fields `op`, `f`, `row`, `col`, `arg` are those of the instruction, and `rsv` is zero (R90). -/
def HasFields (w : Word) (i : Instr) : Prop :=
  (opField w, flagField w, rowField w, colField w, argField w) = fields i ∧ rsvField w = 0

/-- A decoded word carries its instruction's fields: every operand is read from its own field and every
unused field is zero. -/
theorem hasFields_of_decode {w : Word} {i : Instr} (h : decode w = .ok i) : HasFields w i := by
  unfold decode at h
  split at h
  · next hrsv =>
    refine ⟨?_, hrsv⟩
    split at h <;>
      simp only [needNoFlag_eq_ok_iff, needNoArg_eq_ok_iff, needNoPosition_eq_ok_iff, Except.ok.injEq,
        reduceCtorEq] at h
    case h_1 hop | h_2 hop | h_3 hop | h_4 hop =>
      obtain ⟨hflag, harg, rfl⟩ := h
      simp [fields, hop, hflag, harg]
    case h_5 hop | h_8 hop | h_9 hop =>
      obtain rfl := h
      simp [fields, hop]
    case h_6 hop | h_7 hop | h_10 hop =>
      obtain ⟨hflag, rfl⟩ := h
      simp [fields, hop, hflag]
    case h_11 hop =>
      obtain ⟨hflag, harg, ⟨hrow, hcol⟩, rfl⟩ := h
      simp [fields, hop, hflag, harg, hrow, hcol]
  · cases h

/-- A word that carries an instruction's fields decodes to it. -/
theorem decode_of_hasFields {w : Word} {i : Instr} (h : HasFields w i) : decode w = .ok i := by
  obtain ⟨hfields, hrsv⟩ := h
  cases i <;>
  · simp only [fields, Prod.mk.injEq] at hfields
    obtain ⟨hop, hflag, hrow, hcol, harg⟩ := hfields
    simp [decode, hrsv, hop, hflag, hrow, hcol, harg]

/-- The encoder's word of a well-formed instruction carries its fields. -/
theorem hasFields_encode {i : Instr} (h : i.WellFormed) : HasFields (encode i) i := by
  cases i with
  | setled row col => exact setled row col h
  | clrled row col => exact clrled row col h
  | tglled row col => exact tglled row col h
  | isledon row col => exact isledon row col h
  | setdigit row col0 glyph dp => exact setdigit row col0 glyph dp h
  | setblink row col k => exact setblink row col k h
  | clrblink row col k => exact clrblink row col k h
  | setdigblink row col0 dp k => exact setdigblink row col0 dp k h
  | clrdigblink row col0 dp k => exact clrdigblink row col0 dp k h
  | qryblink row col k => exact qryblink row col k h
  | refresh => exact refresh h

/-- Settles O4: the encoder's word carries the instruction's fields, and the decoder reads only fields. -/
theorem decodeOfEncodeGivesTheInstructionBack : Obligations.DecodeOfEncodeGivesTheInstructionBack :=
  fun _ h => decode_of_hasFields (hasFields_encode h)

theorem opField_lt (w : Word) : opField w < 16 := BitVec.isLt _

theorem fitsByte_rowField (w : Word) : fitsByte (rowField w) = true := decide_eq_true (BitVec.isLt _)

theorem fitsByte_colField (w : Word) : fitsByte (colField w) = true := decide_eq_true (BitVec.isLt _)

theorem fitsByte_argField (w : Word) : fitsByte (argField w) = true := decide_eq_true (BitVec.isLt _)

/-- What a word carries fits its fields. -/
theorem wellFormed_of_hasFields {w : Word} {i : Instr} (h : HasFields w i) : i.WellFormed := by
  obtain ⟨hfields, -⟩ := h
  have hrow := fitsByte_rowField w
  have hcol := fitsByte_colField w
  have harg := fitsByte_argField w
  cases i <;>
  · simp only [fields, Prod.mk.injEq] at hfields
    obtain ⟨-, -, hr, hc, ha⟩ := hfields
    rw [hr] at hrow
    rw [hc] at hcol
    rw [ha] at harg
    simp [Instr.WellFormed, Instr.wellFormed, *]

/-- The encoder builds the word of the instruction's fields. -/
theorem encode_eq_commandWord_fields (i : Instr) :
    encode i = commandWord (fields i).1 (fields i).2.1 (fields i).2.2.1 (fields i).2.2.2.1 (fields i).2.2.2.2 := by
  cases i <;> rfl

/-- Settles O5: a legal word is the word of its fields, which are its instruction's. -/
theorem encodeOfDecodeGivesTheWordBack : Obligations.EncodeOfDecodeGivesTheWordBack := by
  intro w i h
  have hf := hasFields_of_decode h
  refine ⟨wellFormed_of_hasFields hf, ?_⟩
  obtain ⟨hfields, hrsv⟩ := hf
  rw [encode_eq_commandWord_fields, ← hfields]
  exact commandWord_fields w hrsv

/-- The operations that use `f` (R90): SETDIGIT, SETDIGBLINK, CLRDIGBLINK. -/
def usesFlag (op : Nat) : Bool := op == 0x5 || op == 0x8 || op == 0x9

/-- The operations that use `row` and `col` (R93): all but REFRESH. -/
def usesPosition (op : Nat) : Bool := op != 0xB

/-- The operations that use `arg` (R90): SETDIGIT and the five of the blink family. -/
def usesArg (op : Nat) : Bool := !(op == 0x1 || op == 0x2 || op == 0x3 || op == 0x4 || op == 0xB)

/-- The word has this `op`, a zero `rsv`, and a zero in every field the operation does not use (R93). -/
structure Spells (w : Word) (op : Nat) : Prop where
  op_eq : opField w = op
  rsv_zero : rsvField w = 0
  flag_used : usesFlag op = false → flagField w = false
  position_used : usesPosition op = false → rowField w = 0 ∧ colField w = 0
  arg_used : usesArg op = false → argField w = 0

theorem spells_iff (w : Word) (op : Nat) :
    Spells w op ↔ opField w = op ∧ rsvField w = 0 ∧ (usesFlag op = false → flagField w = false)
      ∧ (usesPosition op = false → rowField w = 0 ∧ colField w = 0) ∧ (usesArg op = false → argField w = 0) :=
  ⟨fun ⟨ho, hr, hf, hp, ha⟩ => ⟨ho, hr, hf, hp, ha⟩, fun ⟨ho, hr, hf, hp, ha⟩ => ⟨ho, hr, hf, hp, ha⟩⟩

/-- A word that carries an instruction's fields spells its operation. -/
theorem spells_of_hasFields {w : Word} {i : Instr} (h : HasFields w i) : Spells w (fields i).1 := by
  obtain ⟨hfields, hrsv⟩ := h
  cases i <;>
  · simp only [fields, Prod.mk.injEq] at hfields
    obtain ⟨hop, hflag, hrow, hcol, harg⟩ := hfields
    constructor <;> simp [fields, usesFlag, usesPosition, usesArg, *]

/-- A word that spells one of the eleven operations is not refused. -/
theorem exists_decode_of_spells {w : Word} {op : Nat} (h : Spells w op) (h1 : 1 ≤ op) (h11 : op ≤ 11) :
    ∃ i, decode w = .ok i := by
  obtain ⟨hop, hrsv, hflag, hposition, harg⟩ := h
  interval_cases op <;>
  · simp only [usesFlag, usesPosition, usesArg] at hflag hposition harg
    simp [decode, needNoFlag, needNoArg, needNoPosition, *]

/-- The operation code of an instruction is one of the eleven. -/
theorem opCode_range (i : Instr) : 1 ≤ (fields i).1 ∧ (fields i).1 ≤ 11 := by
  cases i <;> simp [fields]

/-- A word decodes to an instruction with a given operation code exactly when it spells that operation. -/
theorem exists_decode_opCode_iff (w : Word) (op : Nat) :
    (∃ i, decode w = .ok i ∧ (fields i).1 = op) ↔ Spells w op ∧ 1 ≤ op ∧ op ≤ 11 := by
  constructor
  · rintro ⟨i, h, rfl⟩
    exact ⟨spells_of_hasFields (hasFields_of_decode h), opCode_range i⟩
  · rintro ⟨h, h1, h11⟩
    obtain ⟨i, hi⟩ := exists_decode_of_spells h h1 h11
    have hcode := (spells_of_hasFields (hasFields_of_decode hi)).op_eq
    exact ⟨i, hi, hcode.symm.trans h.op_eq⟩

/-- A word is legal exactly when it spells the operation its `op` names, and `op` names one. -/
theorem exists_decode_iff (w : Word) :
    (∃ i, decode w = .ok i) ↔ Spells w (opField w) ∧ 1 ≤ opField w ∧ opField w ≤ 11 := by
  rw [← exists_decode_opCode_iff]
  constructor
  · rintro ⟨i, h⟩
    exact ⟨i, h, (spells_of_hasFields (hasFields_of_decode h)).op_eq.symm⟩
  · rintro ⟨i, h, -⟩
    exact ⟨i, h⟩

/-- A word is refused exactly when it decodes to no instruction. -/
theorem exists_error_iff (w : Word) : (∃ e, decode w = .error e) ↔ ¬∃ i, decode w = .ok i := by
  cases decode w <;> simp

theorem usesFlag_eq_false_iff (op : Nat) : usesFlag op = false ↔ op ≠ 0x5 ∧ op ≠ 0x8 ∧ op ≠ 0x9 := by
  simp [usesFlag, and_assoc]

theorem usesPosition_eq_false_iff (op : Nat) : usesPosition op = false ↔ op = 0xB := by
  simp [usesPosition]

theorem usesArg_eq_false_iff (op : Nat) :
    usesArg op = false ↔ op = 0x1 ∨ op = 0x2 ∨ op = 0x3 ∨ op = 0x4 ∨ op = 0xB := by
  simp only [usesArg, Bool.not_eq_false', Bool.or_eq_true, beq_iff_eq, or_assoc]

/-- Settles O7: what makes a word legal, negated field by field. -/
theorem illegalWordsAreExactlyTheReservedOnes : Obligations.IllegalWordsAreExactlyTheReservedOnes := by
  intro w
  have hlt := opField_lt w
  rw [exists_error_iff, exists_decode_iff, spells_iff, usesFlag_eq_false_iff, usesPosition_eq_false_iff,
    usesArg_eq_false_iff]
  grind

/-- Two words put together from the same widths are equal when their parts are. -/
theorem append_eq_append_iff {m n : Nat} (a a' : BitVec m) (b b' : BitVec n) :
    a ++ b = a' ++ b' ↔ a = a' ∧ b = b' := by
  refine ⟨fun h => ⟨?_, ?_⟩, fun ⟨ha, hb⟩ => by rw [ha, hb]⟩
  · rw [← BitVec.extractLsb'_append_eq_left (a := a) (b := b), h, BitVec.extractLsb'_append_eq_left]
  · rw [← BitVec.extractLsb'_append_eq_right (a := a) (b := b), h, BitVec.extractLsb'_append_eq_right]

/-- A field must match where its operation does not use it. -/
def unusedMask (n : Nat) (used : Bool) : BitVec n := if used then 0#n else BitVec.allOnes n

/-- The mask of an operation's row: the fields that must match, `op`, `rsv` and the unused ones (R93). -/
def opMask (op : Nat) : Word :=
  BitVec.allOnes 4 ++ BitVec.allOnes 3 ++ unusedMask 1 (usesFlag op) ++ unusedMask 8 (usesPosition op)
    ++ unusedMask 8 (usesPosition op) ++ unusedMask 8 (usesArg op)

/-- Row n of the table has the mask of operation n + 1, and matches its code alone. -/
theorem opTable_row (n : Fin opTable.length) :
    opTable[n].mask = opMask (n + 1) ∧ opTable[n].value = commandWord (n + 1) false 0 0 0 := by
  revert n
  decide

/-- Row n of the table has the mnemonic of the instructions with operation code n + 1. -/
theorem mnemonic_eq_row_iff (i : Instr) (n : Fin opTable.length) :
    i.mnemonic = opTable[n].mnemonic ↔ (fields i).1 = n + 1 := by
  cases i <;>
  · simp only [Instr.mnemonic, fields]
    revert n
    decide

/-- A word is its six fields put together (R90). -/
theorem word_eq_append (w : Word) :
    w = w.extractLsb' 28 4 ++ w.extractLsb' 25 3 ++ w.extractLsb' 24 1 ++ w.extractLsb' 16 8 ++ w.extractLsb' 8 8
      ++ w.extractLsb' 0 8 := by
  iterate 5 rw [BitVec.extractLsb'_append_extractLsb'_eq_extractLsb' (by decide)]
  exact BitVec.extractLsb'_eq_self.symm

theorem toNat_flagBit_eq_zero_iff (w : Word) : (w.extractLsb' 24 1).toNat = 0 ↔ flagField w = false := by
  have hbit : w.extractLsb' 24 1 = BitVec.ofBool (flagField w) := by
    apply BitVec.eq_of_getLsbD_eq
    intro i hi
    rw [BitVec.getLsbD_extractLsb', flagField]
    simp [show i = 0 by omega]
  rw [hbit]
  cases flagField w <;> decide

/-- A field matches zero under its mask exactly when it is zero if unused. -/
theorem and_unusedMask_eq_zero_iff {n : Nat} (x : BitVec n) (used : Bool) :
    x &&& unusedMask n used = 0#n ↔ (used = false → x.toNat = 0) := by
  cases used <;> simp [unusedMask, BitVec.toNat_eq]

theorem and_allOnes_eq_ofNat_iff {n k : Nat} (x : BitVec n) (h : k < 2 ^ n) :
    x &&& BitVec.allOnes n = BitVec.ofNat n k ↔ x.toNat = k := by
  rw [BitVec.and_allOnes, BitVec.toNat_eq, BitVec.toNat_ofNat, Nat.mod_eq_of_lt h]

/-- A word matches an operation's row exactly when it spells the operation. -/
theorem and_opMask_eq_iff (w : Word) {op : Nat} (h : op < 16) :
    w &&& opMask op = commandWord op false 0 0 0 ↔ Spells w op := by
  conv_lhs => rw [word_eq_append w]
  rw [opMask, commandWord]
  iterate 5 rw [BitVec.and_append, append_eq_append_iff]
  rw [and_allOnes_eq_ofNat_iff _ h, and_allOnes_eq_ofNat_iff _ (by decide : 0 < 2 ^ 3),
    show BitVec.ofBool false = 0#1 from rfl]
  iterate 4 rw [and_unusedMask_eq_zero_iff]
  rw [toNat_flagBit_eq_zero_iff, spells_iff, opField, rsvField, rowField, colField, argField]
  tauto

/-- Row n of the table matches exactly the words that spell operation n + 1. -/
theorem and_row_mask_eq_iff (w : Word) (n : Fin opTable.length) :
    w &&& opTable[n].mask = opTable[n].value ↔ Spells w (n + 1) := by
  obtain ⟨hmask, hvalue⟩ := opTable_row n
  have hlt : n.val < 11 := n.isLt
  rw [hmask, hvalue, and_opMask_eq_iff w (by omega)]

/-- Every row is one of the table's eleven by index. -/
theorem exists_index_of_mem_opTable {row : OpRow} (h : row ∈ opTable) : ∃ n : Fin opTable.length, opTable[n] = row :=
  List.get_of_mem h

/-- Settles O6: row n of the table matches a word exactly when the word spells operation n + 1; a word spells
one operation only, the one in its `op`. -/
theorem wordSpellsOperationIffItMatchesItsRow : Obligations.WordSpellsOperationIffItMatchesItsRow := by
  constructor
  · intro w row hrow
    obtain ⟨n, rfl⟩ := exists_index_of_mem_opTable hrow
    have hlt : n.val < 11 := n.isLt
    simp only [mnemonic_eq_row_iff, exists_decode_opCode_iff, and_row_mask_eq_iff]
    exact and_iff_left ⟨by omega, by omega⟩
  · intro w a b ha hb hwa hwb
    obtain ⟨m, rfl⟩ := exists_index_of_mem_opTable ha
    obtain ⟨n, rfl⟩ := exists_index_of_mem_opTable hb
    have hm := ((and_row_mask_eq_iff w m).mp hwa).op_eq
    have hn := ((and_row_mask_eq_iff w n).mp hwb).op_eq
    rw [show m = n from Fin.ext (by omega)]

/-- Settles O8: the decoder computes on each word. -/
theorem writtenOutWordsDecodeAsSpelled : Obligations.WrittenOutWordsDecodeAsSpelled := by
  refine ⟨?_, ?_, ?_, ?_, ?_, ?_, ?_, ?_, ?_, ?_, ?_, ?_⟩ <;> decide

end Sys2Proof
end

section
/-! PROOFS. What every operation does to the state, once for all operations: `L` from `L`, the masks from the
masks, and a result from the two (R20, R22, R35, R61). -/

namespace Sys2Proof.Machine

open Sys2Proof.Config

/-- What an operation leaves in `L`, from the old `L`. -/
def nextL : Instr → Grid → Grid
  | .setled row col, G => if ValidPos row col then memWrite G row col 1#1 else G
  | .clrled row col, G => if ValidPos row col then memWrite G row col 0#1 else G
  | .tglled row col, G => if ValidPos row col then toggleBit G row col else G
  | .setdigit row col0 glyph dp, G => if ValidSpan row col0 then memWrite G row col0 (digitByte glyph dp) else G
  | _, G => G

/-- The masks with the mask of an existing class rewritten by f when the operand check holds. -/
def mapMask (check : Prop) [Decidable check] (k : Nat) (f : Grid → Grid) (M : Vector Grid NCLASS) :
    Vector Grid NCLASS :=
  if h : check ∧ ValidClass k then M.set k (f (M[k]'h.2)) h.2 else M

/-- What an operation leaves in the masks, from the old masks. -/
def nextM : Instr → Vector Grid NCLASS → Vector Grid NCLASS
  | .setblink row col k, M => mapMask (ValidPos row col) k (memWrite · row col 1#1) M
  | .clrblink row col k, M => mapMask (ValidPos row col) k (memWrite · row col 0#1) M
  | .setdigblink row col0 dp k, M => mapMask (ValidSpan row col0) k (writeDigitMask · row col0 dp 0x7F#7 1#1) M
  | .clrdigblink row col0 dp k, M => mapMask (ValidSpan row col0) k (writeDigitMask · row col0 dp 0x00#7 0#1) M
  | _, M => M

/-- An operation's answer to the host, from `L` and the masks. -/
def answer (L : Grid) (M : Vector Grid NCLASS) : Instr → Byte
  | .isledon row col => if bitOf L row col then OK else FAIL
  | .qryblink row col k =>
    if h : ValidPos row col ∧ ValidClass k then (if bitOf (M[k]'h.2) row col then OK else FAIL) else INVALID
  | .setled row col | .clrled row col | .tglled row col => if ValidPos row col then OK else FAIL
  | .setdigit row col0 _ _ => if ValidSpan row col0 then OK else FAIL
  | .setblink row col k | .clrblink row col k => if ValidPos row col ∧ ValidClass k then OK else FAIL
  | .setdigblink row col0 _ k | .clrdigblink row col0 _ k => if ValidSpan row col0 ∧ ValidClass k then OK else FAIL
  | .refresh => OK

/-- The state after an operation other than REFRESH. -/
def performed (i : Instr) (s : State) : State :=
  { s with L := nextL i s.L, M := nextM i s.M, result := some (answer s.L s.M i), events := [] }

/-- A checked write of `L`: what it leaves in `L`, and its answer. -/
theorem logicalWrite_eq {check : Prop} [Decidable check] (s : State) (G : Grid) :
    (if check then (s.withL G).complete OK [] else s.complete FAIL [])
      = { s with L := if check then G else s.L, result := some (if check then OK else FAIL), events := [] } := by
  split <;> rfl

/-- A checked write of one class's mask: what it leaves in the masks, and its answer. -/
theorem maskWrite_eq {check : Prop} [Decidable check] (s : State) (k : Nat) (f : Grid → Grid) :
    (if check ∧ ValidClass k then (s.withMask k (f (s.maskOf k))).complete OK [] else s.complete FAIL [])
      = { s with M := mapMask check k f s.M, result := some (if check ∧ ValidClass k then OK else FAIL),
                 events := [] } := by
  by_cases h : check ∧ ValidClass k
  · obtain ⟨hcheck, hk⟩ := h
    simp [hcheck, hk, mapMask, State.complete, State.withMask, State.maskOf]
  · rw [if_neg h, if_neg h, mapMask, dif_neg h]
    rfl

/-- ISLEDON needs no check: no bit outside the grid reads as 1. -/
theorem isledon_answer_eq (G : Grid) (row col : Nat) :
    (if ValidPos row col then bitResult (memRead G row col 1) else FAIL) = if bitOf G row col then OK else FAIL := by
  by_cases h : ValidPos row col
  · rw [if_pos h, bitResult_memRead]
  · rw [if_neg h, bitOf_outside h, if_neg Bool.false_ne_true]

/-- QRYBLINK reads the mask of a class that exists. -/
theorem qryblink_answer_eq (s : State) (row col k : Nat) :
    (if ValidPos row col ∧ ValidClass k then bitResult (memRead (s.maskOf k) row col 1) else INVALID)
      = answer s.L s.M (.qryblink row col k) := by
  by_cases h : ValidPos row col ∧ ValidClass k
  · rw [if_pos h, answer, dif_pos h, bitResult_memRead, State.maskOf, dif_pos h.2]
  · rw [if_neg h, answer, dif_neg h]

/-- Every operation but REFRESH, on every operand and from every state. -/
theorem exec_eq_performed {i : Instr} (hi : i ≠ .refresh) (s : State) : exec i s = .next (performed i s) := by
  cases i with
  | setled row col => rw [exec_setled, logicalWrite_eq]; rfl
  | clrled row col => rw [exec_clrled, logicalWrite_eq]; rfl
  | tglled row col => rw [exec_tglled, logicalWrite_eq]; rfl
  | isledon row col => rw [exec_isledon, isledon_answer_eq]; rfl
  | setdigit row col0 glyph dp => rw [exec_setdigit, logicalWrite_eq]; rfl
  | setblink row col k => rw [exec_setblink, maskWrite_eq _ _ (memWrite · row col 1#1)]; rfl
  | clrblink row col k => rw [exec_clrblink, maskWrite_eq _ _ (memWrite · row col 0#1)]; rfl
  | setdigblink row col0 dp k =>
    rw [exec_setdigblink, maskWrite_eq _ _ (writeDigitMask · row col0 dp 0x7F#7 1#1)]; rfl
  | clrdigblink row col0 dp k =>
    rw [exec_clrdigblink, maskWrite_eq _ _ (writeDigitMask · row col0 dp 0x00#7 0#1)]; rfl
  | qryblink row col k => rw [exec_qryblink, qryblink_answer_eq]; rfl
  | refresh => exact absurd rfl hi

/-- What an operation that answers a next state can have done. -/
theorem exec_next_cases {i : Instr} {s t : State} (h : exec i s = .next t) :
    (i ≠ .refresh ∧ t = performed i s) ∨ (i = .refresh ∧ t = refreshed s) := by
  by_cases hi : i = .refresh
  · rw [hi, exec_refresh] at h
    exact .inr ⟨hi, (Host.Outcome.next.inj h).symm⟩
  · rw [exec_eq_performed hi] at h
    exact .inl ⟨hi, (Host.Outcome.next.inj h).symm⟩

theorem exec_L {i : Instr} {s t : State} (h : exec i s = .next t) : t.L = nextL i s.L := by
  obtain ⟨-, rfl⟩ | ⟨rfl, rfl⟩ := exec_next_cases h
  · rfl
  · exact refreshed_L s

theorem exec_M {i : Instr} {s t : State} (h : exec i s = .next t) : t.M = nextM i s.M := by
  obtain ⟨-, rfl⟩ | ⟨rfl, rfl⟩ := exec_next_cases h
  · rfl
  · exact refreshed_M s

theorem exec_result {i : Instr} {s t : State} (h : exec i s = .next t) : t.result = some (answer s.L s.M i) := by
  obtain ⟨-, rfl⟩ | ⟨rfl, rfl⟩ := exec_next_cases h
  · rfl
  · exact refreshed_result s

/-- Every operation completes, on every operand and from every state (R11). -/
theorem exists_exec_next (i : Instr) (s : State) : ∃ t, exec i s = .next t := by
  by_cases hi : i = .refresh
  · exact ⟨refreshed s, by rw [hi, exec_refresh]⟩
  · exact ⟨performed i s, exec_eq_performed hi s⟩

/-- What a step that answers a next state can have done: nothing, an operation, an illegal command, or a
passage of time. -/
theorem step_next_cases {s t : State} (h : step s = .next t) :
    (s.inputs = [] ∧ t = s)
      ∨ (∃ rest w i, s.inputs = .issue w :: rest ∧ decode w = .ok i ∧ exec i { s with inputs := rest } = .next t)
      ∨ (∃ rest w e, s.inputs = .issue w :: rest ∧ decode w = .error e
          ∧ t = ({ s with inputs := rest } : State).complete ILLEGAL [])
      ∨ ∃ rest d, s.inputs = .tick d :: rest ∧ t = { s with inputs := rest, NOW := s.NOW + d } := by
  rcases hin : s.inputs with _ | ⟨w | d, rest⟩
  · rw [step_idle hin] at h
    exact .inl ⟨rfl, (Host.Outcome.next.inj h).symm⟩
  · rw [step_issue hin] at h
    rcases hw : decode w with e | i
    · rw [runWord_error hw] at h
      exact .inr (.inr (.inl ⟨rest, w, e, rfl, hw, (Host.Outcome.next.inj h).symm⟩))
    · rw [runWord_ok hw] at h
      exact .inr (.inl ⟨rest, w, i, rfl, hw, h⟩)
  · rw [step_tick hin] at h
    exact .inr (.inr (.inr ⟨rest, d, rfl, (Host.Outcome.next.inj h).symm⟩))

/-- Settles O9: the step's own equations, by the next outside move. -/
theorem stepRunsTheNextOutsideMove : Obligations.StepRunsTheNextOutsideMove := by
  refine fun s rest => ⟨fun w i hin hw => ?_, fun w e hin hw => ?_, fun d hin => step_tick hin, step_idle⟩
  · rw [step_issue hin, runWord_ok hw]
  · rw [step_issue hin, runWord_error hw]
    rfl

/-- Settles O10: an idle step, a passage of time, an illegal command and every operation answer a next state. -/
theorem everyStepAnswersANextState : Obligations.EveryStepAnswersANextState := by
  refine ⟨fun s => ?_, exists_exec_next⟩
  rcases hin : s.inputs with _ | ⟨w | d, rest⟩
  · exact ⟨s, step_idle hin⟩
  · rw [step_issue hin]
    rcases hw : decode w with e | i
    · exact ⟨_, runWord_error hw _⟩
    · rw [runWord_ok hw]
      exact exists_exec_next i _
  · exact ⟨_, step_tick hin⟩

/-- Settles O31: an operation that is not REFRESH writes only `L`, the masks and the ports, and what shows is
read from the latch and the lines. -/
theorem onlyRefreshPublishes : Obligations.OnlyRefreshPublishes := by
  intro i s t hi h
  obtain ⟨-, rfl⟩ | ⟨rfl, -⟩ := exec_next_cases h
  · exact ⟨rfl, fun r c => rfl⟩
  · exact absurd rfl hi

/-- Settles O33: the new `L` and the new masks differ from the old in the cases of their writers alone. -/
theorem logicalGridAndMasksHaveTheirOwnWriters : Obligations.LogicalGridAndMasksHaveTheirOwnWriters := by
  intro i s t h
  rw [exec_L h, exec_M h]
  refine ⟨fun hi => ?_, fun hi => ?_⟩
  · cases i with
    | setled | clrled | tglled | setdigit => simp [Instr.mnemonic] at hi
    | isledon | setblink | clrblink | setdigblink | clrdigblink | qryblink | refresh => rfl
  · cases i with
    | setblink | clrblink | setdigblink | clrdigblink => simp [Instr.mnemonic] at hi
    | setled | clrled | tglled | isledon | setdigit | qryblink | refresh => rfl

/-- Settles O34: the new `L`, the new masks and the result are functions of the old `L`, of the old masks, and
of the two. -/
theorem resultsRevealOnlyLogicalGridAndMasks : Obligations.ResultsRevealOnlyLogicalGridAndMasks := by
  refine ⟨fun i s s' t t' h h' hL hM => ⟨?_, ?_, ?_⟩, fun i s s' t t' h h' hL => ?_, fun i s s' t t' h h' hM => ?_⟩
  · rw [exec_result h, exec_result h', hL, hM]
  · rw [exec_L h, exec_L h', hL]
  · rw [exec_M h, exec_M h', hM]
  · rw [exec_L h, exec_L h', hL]
  · rw [exec_M h, exec_M h', hM]

end Sys2Proof.Machine
end

section
/-! PROOFS. What the writes of single LEDs, digits and memberships do to the bits of the grids, and what the
queries answer (R130 to R134, R140, R151 to R156). -/

namespace Sys2Proof.Machine

open Sys2Proof.Config

/-- The bits after a write of one position. -/
theorem bitOf_memWrite_one (G : Grid) {row col : Nat} (b : BitVec 1) (h : ValidPos row col) (r c : Nat) :
    bitOf (memWrite G row col b) r c = if r = row ∧ c = col then b.getLsbD 0 else bitOf G r c := by
  obtain ⟨hrow, hcol⟩ := h
  rw [bitOf_memWrite _ _ _ _ (by omega)]
  by_cases hc : c = col
  · subst hc
    simp [hrow, hcol]
  · have hspan : ¬(col ≤ c ∧ c < col + 1) := by omega
    rw [if_neg (by tauto), if_neg (by tauto)]

/-- The bits after a toggle of one position. -/
theorem bitOf_toggleBit (G : Grid) {row col : Nat} (h : ValidPos row col) (r c : Nat) :
    bitOf (toggleBit G row col) r c = if r = row ∧ c = col then !bitOf G r c else bitOf G r c := by
  rw [toggleBit, bitOf_memWrite_one G _ h]
  by_cases hpos : r = row ∧ c = col
  · obtain ⟨rfl, rfl⟩ := hpos
    rw [BitVec.getLsbD_xor, getLsbD_memRead]
    simp
  · rw [if_neg hpos, if_neg hpos]

/-- The bits after a write of n columns within the row. -/
theorem bitOf_memWrite_span {n : Nat} (G : Grid) {row col0 : Nat} (v : BitVec n) (hrow : row < ROWS)
    (hspan : col0 + n ≤ COLS) (r c : Nat) :
    bitOf (memWrite G row col0 v) r c
      = if r = row ∧ col0 ≤ c ∧ c < col0 + n then v.getLsbD (c - col0) else bitOf G r c := by
  rw [bitOf_memWrite _ _ _ _ (le_trans (Nat.le_add_left n col0) hspan)]
  have hcol : (r = row ∧ row < ROWS ∧ col0 ≤ c ∧ c < col0 + n ∧ c < COLS) ↔ r = row ∧ col0 ≤ c ∧ c < col0 + n := by
    omega
  simp only [hcol]

/-- The bits after a digit is written: seven segments and the point. -/
theorem bitOf_memWrite_digitByte (G : Grid) {row col0 : Nat} (glyph : Nat) (dp : Bool) (h : ValidSpan row col0)
    (r c : Nat) :
    bitOf (memWrite G row col0 (digitByte glyph dp)) r c
      = if r = row ∧ col0 ≤ c ∧ c < col0 + 7 then (fontLookup glyph).getLsbD (c - col0)
        else if r = row ∧ c = col0 + 7 then dp
        else bitOf G r c := by
  obtain ⟨hrow, hcol⟩ := h
  rw [bitOf_memWrite_span G _ hrow (by omega), getLsbD_digitByte]
  by_cases hseg : r = row ∧ col0 ≤ c ∧ c < col0 + 7
  · rw [if_pos hseg, if_pos (by omega), if_pos (by omega)]
  by_cases hpt : r = row ∧ c = col0 + 7
  · rw [if_neg hseg, if_pos hpt, if_pos (by omega), if_neg (by omega)]
    simp [show c - col0 = 7 by omega]
  · rw [if_neg hseg, if_neg hpt, if_neg (by omega)]

/-- The bits after a span of memberships is written: the seven segments, and the point when the flag is set. -/
theorem bitOf_writeDigitMask (G : Grid) {row col0 : Nat} (dp : Bool) {seg : BitVec 7} {pt : BitVec 1} (b : Bool)
    (hseg : ∀ i < 7, seg.getLsbD i = b) (hpt : pt.getLsbD 0 = b) (h : ValidSpan row col0) (r c : Nat) :
    bitOf (writeDigitMask G row col0 dp seg pt) r c
      = if r = row ∧ col0 ≤ c ∧ (c < col0 + 7 ∨ (dp = true ∧ c = col0 + 7)) then b else bitOf G r c := by
  obtain ⟨hrow, hcol⟩ := h
  have hsegs : bitOf (memWrite G row col0 seg) r c
      = if r = row ∧ col0 ≤ c ∧ c < col0 + 7 then b else bitOf G r c := by
    rw [bitOf_memWrite_span G seg hrow (by omega)]
    split
    · exact hseg _ (by omega)
    · rfl
  cases dp
  · simpa [writeDigitMask] using hsegs
  · simp only [writeDigitMask, if_true]
    rw [bitOf_memWrite_one _ _ ⟨hrow, hcol⟩, hsegs, hpt]
    grind

section
variable {outcome : Host.Outcome State Fault Refusal} {p : Prop} [Decidable p] {s : State}

/-- A checked write of `L` whose check holds completes, and changes `L` and the ports alone. -/
theorem logicalWrite_of_check {G : Grid}
    (ho : outcome = .next (if p then (s.withL G).complete OK [] else s.complete FAIL [])) (hp : p) :
    ∃ t, outcome = .next t ∧ t = { s with L := t.L, result := some OK, events := [] } ∧ t.L = G := by
  rw [if_pos hp] at ho
  exact ⟨_, ho, rfl, rfl⟩

/-- A checked write of one class's mask whose check holds completes, and changes that class's mask and the
ports alone (R156). -/
theorem maskWrite_of_check {k : Nat} {G : Grid} (hk : ValidClass k)
    (ho : outcome = .next (if p then (s.withMask k G).complete OK [] else s.complete FAIL [])) (hp : p) :
    ∃ t, outcome = .next t ∧ t = { s with M := t.M, result := some OK, events := [] }
      ∧ ∀ j, t.maskOf j = if j = k then G else s.maskOf j := by
  rw [if_pos hp] at ho
  refine ⟨_, ho, rfl, fun j => ?_⟩
  rw [State.maskOf_complete]
  by_cases hj : j = k
  · rw [if_pos hj, hj, State.maskOf_withMask_same _ _ hk]
  · rw [if_neg hj, State.maskOf_withMask_other _ _ hj]

end

/-- Settles O12: a checked write of `L` at one position. -/
theorem singleLedWritesSetClearOrToggleOneBit : Obligations.SingleLedWritesSetClearOrToggleOneBit := by
  intro s row col hv
  refine ⟨?_, ?_, ?_⟩
  · obtain ⟨t, hexec, hframe, hL⟩ := logicalWrite_of_check (exec_setled row col s) hv
    exact ⟨t, hexec, hframe, fun r c => by rw [hL, bitOf_memWrite_one _ _ hv]; rfl⟩
  · obtain ⟨t, hexec, hframe, hL⟩ := logicalWrite_of_check (exec_clrled row col s) hv
    exact ⟨t, hexec, hframe, fun r c => by rw [hL, bitOf_memWrite_one _ _ hv]; rfl⟩
  · obtain ⟨t, hexec, hframe, hL⟩ := logicalWrite_of_check (exec_tglled row col s) hv
    exact ⟨t, hexec, hframe, fun r c => by rw [hL, ← bitOf_toggleBit _ hv, toggleBit]⟩

/-- A query of `L`, in range or out of range. -/
theorem exec_isledon_of_valid {row col : Nat} (h : ValidPos row col) (s : State) :
    exec (.isledon row col) s = .next (untouched s (if bitOf s.L row col then OK else FAIL)) := by
  rw [exec_isledon, if_pos h, bitResult_memRead]
  rfl

/-- Settles O13: the bit read in range, and a failed check out of range. -/
theorem isledonAnswersTheLogicalBit : Obligations.IsledonAnswersTheLogicalBit :=
  fun s row col => ⟨fun hv => exec_isledon_of_valid hv s, checkedQuery_of_not (exec_isledon row col s)⟩

/-- Settles O14: a checked write of `L` on one span. -/
theorem setdigitOverwritesExactlyItsSpan : Obligations.SetdigitOverwritesExactlyItsSpan := by
  intro s row col0 glyph dp hv
  obtain ⟨t, hexec, hframe, hL⟩ := logicalWrite_of_check (exec_setdigit row col0 glyph dp s) hv
  exact ⟨t, hexec, hframe, fun r c => by rw [hL, bitOf_memWrite_digitByte _ _ _ hv]⟩

/-- The span byte as the source writes it: the pattern or'ed with the point shifted to bit 7 (R63). -/
theorem digitByte_eq_or (glyph : Nat) (dp : Bool) :
    digitByte glyph dp = (fontLookup glyph).setWidth 8 ||| ((BitVec.ofBool dp).setWidth 8 <<< 7) := by
  rw [digitByte, BitVec.or_comm, ← BitVec.setWidth_append_eq_shiftLeft_setWidth_or, BitVec.setWidth_eq]

/-- Settles O15: the span just written reads back as the byte written, and ISLEDON reads its bits. -/
theorem digitReadsBackThroughIsledon : Obligations.DigitReadsBackThroughIsledon := by
  intro s row col0 glyph dp hv
  obtain ⟨t, hexec, -, hL⟩ := logicalWrite_of_check (exec_setdigit row col0 glyph dp s) hv
  have hrow : row < ROWS := hv.1
  have hspan : col0 + 8 ≤ COLS := hv.2
  refine ⟨t, hexec, ?_, fun i hi => ?_⟩
  · rw [hL, memRead_memWrite_same _ _ hrow hspan, digitByte_eq_or]
  · rw [exec_isledon_of_valid (validPos_of_validSpan hv (by omega)), getLsbD_memRead, decide_eq_true hi, Bool.true_and]

/-- A write of class k's mask, bit by bit of either class. -/
theorem bitOf_maskOf_of_write {s t : State} {k r c : Nat} {G : Grid} {p : Prop} [Decidable p] {b : Bool}
    (ht : ∀ j, t.maskOf j = if j = k then G else s.maskOf j)
    (hG : bitOf G r c = if p then b else bitOf (s.maskOf k) r c) (j : Nat) :
    bitOf (t.maskOf j) r c = if j = k ∧ p then b else bitOf (s.maskOf j) r c := by
  rw [ht]
  by_cases hj : j = k
  · subst hj
    simpa using hG
  · simp [hj]

/-- Settles O16: a checked write of one class's mask at one position. -/
theorem blinkWritesOneBitOfOneClass : Obligations.BlinkWritesOneBitOfOneClass := by
  intro s row col k hv hk
  refine ⟨?_, ?_⟩
  · obtain ⟨t, hexec, hframe, hM⟩ := maskWrite_of_check hk (exec_setblink row col k s) ⟨hv, hk⟩
    exact ⟨t, hexec, hframe, fun j r c => bitOf_maskOf_of_write hM (bitOf_memWrite_one _ _ hv r c) j⟩
  · obtain ⟨t, hexec, hframe, hM⟩ := maskWrite_of_check hk (exec_clrblink row col k s) ⟨hv, hk⟩
    exact ⟨t, hexec, hframe, fun j r c => bitOf_maskOf_of_write hM (bitOf_memWrite_one _ _ hv r c) j⟩

/-- Settles O17: a checked write of one class's mask on the segments and, with the flag, the point. -/
theorem digitBlinkWritesSegmentsAndFlaggedPoint : Obligations.DigitBlinkWritesSegmentsAndFlaggedPoint := by
  intro s row col0 dp k hv hk
  refine ⟨?_, ?_⟩
  · obtain ⟨t, hexec, hframe, hM⟩ := maskWrite_of_check hk (exec_setdigblink row col0 dp k s) ⟨hv, hk⟩
    exact ⟨t, hexec, hframe, fun j r c =>
      bitOf_maskOf_of_write hM (bitOf_writeDigitMask _ dp true (by decide) rfl hv r c) j⟩
  · obtain ⟨t, hexec, hframe, hM⟩ := maskWrite_of_check hk (exec_clrdigblink row col0 dp k s) ⟨hv, hk⟩
    exact ⟨t, hexec, hframe, fun j r c =>
      bitOf_maskOf_of_write hM (bitOf_writeDigitMask _ dp false (by decide) rfl hv r c) j⟩

/-- Settles O18: the bit read where the check holds, and a failed check elsewhere. -/
theorem qryblinkAnswersThreeWays : Obligations.QryblinkAnswersThreeWays := by
  refine fun s row col k => ⟨fun hv hk => ?_, checkedQuery_of_not (exec_qryblink row col k s)⟩
  rw [exec_qryblink, if_pos ⟨hv, hk⟩, bitResult_memRead]
  rfl

/-- Settles O19: the three branches of the lookup. -/
theorem fontLookupFollowsItsPolicy : Obligations.FontLookupFollowsItsPolicy :=
  ⟨fontLookup_code, fontLookup_ascii, fun _ hcode hascii => fontLookup_other (by omega) (by omega)⟩

end Sys2Proof.Machine
end

section
/-! PROOFS. The phases and the composition of a REFRESH: which classes flip, and which bits of `P` are lit
(R171, R172, R173, R176, R179, R180). -/

namespace Sys2Proof.Machine

open Sys2Proof.Config

/-- A row word is not zero exactly when one of its bits is set. -/
theorem row_ne_zero_iff (w : Row) : w ≠ 0#32 ↔ ∃ c, c < COLS ∧ w.getLsbD c = true := by
  constructor
  · intro h
    by_contra hnone
    apply h
    apply BitVec.eq_of_getLsbD_eq
    intro c hc
    rw [BitVec.getLsbD_zero, Bool.eq_false_iff]
    exact fun hbit => hnone ⟨c, hc, hbit⟩
  · rintro ⟨c, -, hbit⟩ rfl
    simp at hbit

/-- Settles O20: the test looks for a nonzero row of some mask. -/
theorem anyBlinkIsActiveIffSomeMaskBitIsSet : Obligations.AnyBlinkIsActiveIffSomeMaskBitIsSet := by
  intro M
  simp only [anyBlinkActive, List.any_eq_true, Vector.mem_toList_iff, Vector.mem_iff_getElem, decide_eq_true_eq,
    row_ne_zero_iff]
  constructor
  · rintro ⟨_, ⟨k, hk, rfl⟩, _, ⟨r, hr, rfl⟩, c, hc, hbit⟩
    exact ⟨⟨k, hk⟩, r, c, hr, hc, by rwa [bitOf, rowOf, dif_pos hr]⟩
  · rintro ⟨k, r, c, hr, hc, hbit⟩
    rw [bitOf, rowOf, dif_pos hr] at hbit
    exact ⟨_, ⟨k, k.isLt, rfl⟩, _, ⟨r, hr, rfl⟩, c, hc, hbit⟩

/-- A set bit lies within the grid. -/
theorem validPos_of_bitOf {G : Grid} {r c : Nat} (h : bitOf G r c = true) : ValidPos r c := by
  by_contra hout
  rw [bitOf_outside hout] at h
  exact Bool.false_ne_true h

/-- A member of any class makes blink active (R171). -/
theorem anyBlinkActive_of_member {M : Vector Grid NCLASS} {k : ClassIx} {r c : Nat} (h : bitOf M[k] r c = true) :
    anyBlinkActive M = true := by
  obtain ⟨hr, hc⟩ := validPos_of_bitOf h
  exact (anyBlinkIsActiveIffSomeMaskBitIsSet M).mpr ⟨k, r, c, hr, hc, h⟩

/-- The class's phase has run longer than its duration at the next REFRESH (R172). -/
def Expired (s : State) (k : ClassIx) : Prop :=
  anyBlinkActive s.M = true ∧ s.DUR[k] < elapsed s.NOW s.T0[k]

theorem classPhase_refreshed (s : State) (k : ClassIx) :
    (refreshed s).classPhase k = (afterPhases s).classPhase k := by
  simp [State.classPhase]

/-- A refresh keeps all three registers of a class that is not expired. -/
theorem classPhase_refreshed_of_not_expired {s : State} {k : ClassIx} (h : ¬Expired s k) :
    (refreshed s).classPhase k = s.classPhase k := by
  rw [classPhase_refreshed, afterPhases_classPhase]
  split
  · next hany => exact if_neg fun hlt => h ⟨hany, hlt⟩
  · rfl

/-- A refresh writes the physical grid, the phase registers, the lines, the chain and the ports alone. -/
theorem refreshed_frame (s : State) :
    refreshed s
      = { s with P := (refreshed s).P, PH := (refreshed s).PH, T0 := (refreshed s).T0, DUR := (refreshed s).DUR,
                 PIN := (refreshed s).PIN, sink := (refreshed s).sink, result := some OK,
                 events := transmitEvents (refreshed s).P } := by
  apply State.ext <;> simp

/-- Settles O21: the frame of a refresh, and the two cases of the phase update. -/
theorem refreshFlipsExactlyTheExpiredClasses : Obligations.RefreshFlipsExactlyTheExpiredClasses := by
  refine fun s => ⟨refreshed s, exec_refresh s, refreshed_frame s, fun k => ⟨fun h => ?_, fun h => ?_⟩⟩
  · obtain ⟨hph, ht0, hdur⟩ := ClassPhase.mk.inj (classPhase_refreshed_of_expired h.1 h.2)
    refine ⟨ht0, fun hb => ?_, fun hd => ?_⟩
    · rw [hb] at hph hdur
      exact ⟨hph, hdur⟩
    · rw [hd] at hph hdur
      exact ⟨hph, hdur⟩
  · obtain ⟨hph, ht0, hdur⟩ := ClassPhase.mk.inj (classPhase_refreshed_of_not_expired h)
    exact ⟨ht0, hph, hdur⟩

/-- One class's part of the masking: a lit bit stays lit unless it is a member and the class is dark (R173). -/
theorem getLsbD_maskClass_iff (w mask : Row) (ph : Phase) (c : Nat) :
    (if ph = .dark then w &&& ~~~mask else w).getLsbD c = true
      ↔ w.getLsbD c = true ∧ (mask.getLsbD c = true → ph = .bright) := by
  cases ph
  · simp
  · by_cases hc : c < 32
    · simp [hc]
    · simp [BitVec.getLsbD_of_ge w c (by omega)]

/-- A bit of a masked row is lit exactly when the logical bit is and no dark class has it as a member (R173). -/
theorem getLsbD_maskDark_iff (s : State) (r : Fin ROWS) (c : Nat) :
    (maskDark s r).getLsbD c = true
      ↔ s.L[r].getLsbD c = true ∧ ∀ k : ClassIx, s.M[k][r].getLsbD c = true → s.PH[k] = .bright := by
  rw [maskDark_eq, Fin.forall_fin_two, getLsbD_maskClass_iff, getLsbD_maskClass_iff, and_assoc]

/-- A physical bit after a refresh is lit exactly when the logical bit is and every class it is a member of is
bright (R179). -/
theorem bitOf_refreshed_P_iff (s : State) (r c : Nat) :
    bitOf (refreshed s).P r c = true
      ↔ bitOf s.L r c = true ∧ ∀ k : ClassIx, bitOf s.M[k] r c = true → (refreshed s).PH[k] = .bright := by
  by_cases hr : r < ROWS
  · have hrow (G : Grid) : bitOf G r c = G[(⟨r, hr⟩ : Fin ROWS)].getLsbD c := by rw [bitOf, rowOf, dif_pos hr]; rfl
    rw [refreshed_P, refreshed_PH, bitOf, rowOf_afterCompose s hr]
    split
    · simp only [getLsbD_maskDark_iff, afterPhases_L, afterPhases_M, hrow]
    · next hany =>
      have hnone (k : ClassIx) : bitOf s.M[k] r c ≠ true := fun h => hany (anyBlinkActive_of_member h)
      rw [hrow s.L]
      exact (and_iff_left fun k h => absurd h (hnone k)).symm
  · have hout (G : Grid) : bitOf G r c = false := bitOf_outside fun h => hr h.1
    simp [hout]

/-- Settles O22: a class that is not bright is dark. -/
theorem physicalBitIsLogicalBitLessDarkMembers : Obligations.PhysicalBitIsLogicalBitLessDarkMembers := by
  refine fun s => ⟨refreshed s, exec_refresh s, fun r c => ?_⟩
  have hdark (p : Phase) : p = .bright ↔ p ≠ .dark := by cases p <;> decide
  simp only [bitOf_refreshed_P_iff, hdark, not_exists, not_and, ne_eq]

/-- There are two classes only (R6). -/
theorem eq_of_ne_of_ne {i j k : ClassIx} (hkj : k ≠ j) (hij : i ≠ j) : i = k := by
  revert i j k
  decide

/-- Settles O24: the phase update of a class reads that class's registers alone, and a physical bit reads the
phases of the classes it is a member of alone. -/
theorem speedClassesDoNotInterfere : Obligations.SpeedClassesDoNotInterfere := by
  refine ⟨fun s s' t t' k h h' hnow hany hclass => ?_, fun s s' t t' k j r c hkj h h' hL hM hph hj => ?_,
    fun s t r c h hn hs => ?_⟩
  · obtain rfl := Host.Outcome.next.inj h
    obtain rfl := Host.Outcome.next.inj h'
    simp only [classPhase_refreshed, afterPhases_classPhase, hnow, hany, hclass]
  · obtain rfl := Host.Outcome.next.inj h
    obtain rfl := Host.Outcome.next.inj h'
    rw [Bool.eq_iff_iff, bitOf_refreshed_P_iff, bitOf_refreshed_P_iff, ← hL, ← hM]
    refine and_congr_right fun _ => forall_congr' fun i => imp_congr_right fun hi => ?_
    have hij : i ≠ j := fun e => by
      rw [e, hj] at hi
      exact Bool.false_ne_true hi
    rw [eq_of_ne_of_ne hkj hij, hph]
  · obtain rfl := Host.Outcome.next.inj h
    rw [bitOf_refreshed_P_iff, Fin.forall_fin_two]
    exact and_congr_right fun _ => and_congr (forall_prop_of_true hn) (forall_prop_of_true hs)

/-- Position (r, c) is logically lit and a member of class k alone, and k is in phase `ph` since `t0`, with
that phase's duration. -/
structure LoneMember (s : State) (k : ClassIx) (r c : Nat) (ph : Phase) (t0 : Time) : Prop where
  lit : bitOf s.L r c = true
  member : bitOf s.M[k] r c = true
  alone : ∀ j : ClassIx, j ≠ k → bitOf s.M[j] r c = false
  phase : s.classPhase k = ⟨ph, t0, durationOf k ph⟩

section
variable {s : State} {k : ClassIx} {r c : Nat} {ph : Phase} {t0 : Time}

/-- What a refresh at `t0 + d` leaves of a lone member: its class flips exactly when `d` is longer than the
phase's duration, modulo 2^32 (R172, D12). -/
theorem LoneMember.refreshed_at (h : LoneMember s k r c ph t0) (d : Time) :
    (durationOf k ph < d → LoneMember (refreshed { s with NOW := t0 + d }) k r c (flipPhase ph) (t0 + d))
      ∧ (¬durationOf k ph < d → LoneMember (refreshed { s with NOW := t0 + d }) k r c ph t0) := by
  obtain ⟨hlit, hmember, halone, hphase⟩ := h
  have hstays (ph' : Phase) (t0' : Time)
      (h' : updateClass (t0 + d) k (s.classPhase k) = ⟨ph', t0', durationOf k ph'⟩) :
      LoneMember (refreshed { s with NOW := t0 + d }) k r c ph' t0' := by
    refine ⟨by rwa [refreshed_L], by rwa [refreshed_M], by rwa [refreshed_M], ?_⟩
    rw [classPhase_refreshed, afterPhases_classPhase, if_pos (anyBlinkActive_of_member hmember)]
    exact h'
  have helapsed : elapsed (t0 + d) t0 = d := by rw [elapsed, BitVec.add_comm, BitVec.add_sub_cancel]
  refine ⟨fun hlt => hstays _ _ ?_, fun hle => hstays _ _ ?_⟩
  · rw [hphase, updateClass, helapsed, if_pos hlt]
  · rw [hphase, updateClass, helapsed, if_neg hle]

/-- A lone member is lit after a refresh exactly when the refresh leaves its class bright (R180). -/
theorem LoneMember.bitOf_refreshed_P (h : LoneMember (refreshed s) k r c ph t0) :
    bitOf (refreshed s).P r c = decide (ph = .bright) := by
  obtain ⟨hlit, hmember, halone, hphase⟩ := h
  rw [refreshed_L] at hlit
  rw [refreshed_M] at hmember halone
  have hph : (refreshed s).PH[k] = ph := (ClassPhase.mk.inj hphase).1
  rw [Bool.eq_iff_iff, bitOf_refreshed_P_iff, decide_eq_true_iff, ← hph]
  refine ⟨fun ⟨_, hbright⟩ => hbright k hmember, fun hbright => ⟨hlit, fun j hj => ?_⟩⟩
  by_cases hjk : j = k
  · rw [hjk, hbright]
  · rw [halone j hjk] at hj
    exact absurd hj Bool.false_ne_true

end

/-- No configured duration is the largest time, so one millisecond more is longer. -/
theorem durationOf_lt_add_one (k : ClassIx) (ph : Phase) : durationOf k ph < durationOf k ph + 1#32 := by
  cases ph <;> revert k <;> decide

/-- Settles O25: the lone member's class keeps its phase at once and at its duration, and flips one
millisecond past each of its durations. -/
theorem loneMemberBlinksOnSchedule : Obligations.LoneMemberBlinksOnSchedule := by
  intro s k r c hlit hmember halone hph hdur ht0
  have hs : LoneMember s k r c .bright s.NOW :=
    ⟨hlit, hmember, halone, by rw [State.classPhase, hph, hdur, ht0]; rfl⟩
  have ha : LoneMember (refreshed s) k r c .bright s.NOW := by
    have := (hs.refreshed_at 0#32).2 BitVec.not_lt_zero
    rwa [BitVec.add_zero] at this
  have hb := (ha.refreshed_at BRIGHT_MS[k]).2 (BitVec.lt_irrefl _)
  have hd := (hb.refreshed_at (BRIGHT_MS[k] + 1#32)).1 (durationOf_lt_add_one k .bright)
  have he := (hd.refreshed_at (DARK_MS[k] + 1#32)).1 (durationOf_lt_add_one k .dark)
  simp only [← BitVec.add_assoc] at hd he
  exact ⟨_, _, _, _, exec_refresh s, ha.bitOf_refreshed_P, exec_refresh _, hb.bitOf_refreshed_P, exec_refresh _,
    hd.bitOf_refreshed_P, exec_refresh _, he.bitOf_refreshed_P⟩

end Sys2Proof.Machine
end

section
/-! PROOFS. What the transmission does to the lines and the chain, and what a sink records of it (R200 to
R205, R208 to R214). -/

namespace Sys2Proof.Machine

open Sys2Proof.Config

/-- Bit i of the chain after one more bit: the new bit at 0, every other bit one place up (R211). -/
theorem getLsbD_shiftIn (sr : Frame) (b : Bool) (i : Nat) (hi : i < 40) :
    (shiftIn sr b).getLsbD i = if i = 0 then b else sr.getLsbD (i - 1) := by
  rw [shiftIn, BitVec.getLsbD_or, BitVec.getLsbD_shiftLeft, BitVec.getLsbD_setWidth, BitVec.getLsbD_ofBool]
  cases i <;> simp [hi]

/-- The chain after the low n bits of a frame: those bits, and above them what the chain held. -/
theorem getLsbD_foldl_shiftIn_bitsDown (f : Frame) (n : Nat) (sr : Frame) (i : Nat) (hi : i < 40) :
    ((bitsDown f n).foldl shiftIn sr).getLsbD i = if i < n then f.getLsbD i else sr.getLsbD (i - n) := by
  induction n generalizing sr with
  | zero => rfl
  | succ n ih =>
    rw [bitsDown, List.foldl_cons, ih]
    by_cases hlt : i < n
    · rw [if_pos hlt, if_pos (by omega)]
    rw [if_neg hlt, getLsbD_shiftIn _ _ _ (by omega)]
    by_cases heq : i = n
    · rw [if_pos (by omega), if_pos (by omega), heq]
    · rw [if_neg (by omega), if_neg (by omega), Nat.sub_sub]

/-- Forty bits flush the chain (R212). -/
theorem foldl_shiftIn_bitsDown (f sr : Frame) : (bitsDown f FRAME_W).foldl shiftIn sr = f := by
  apply BitVec.eq_of_getLsbD_eq
  intro i hi
  rw [getLsbD_foldl_shiftIn_bitsDown f FRAME_W sr i hi, if_pos hi]

/-- The last bit sent is bit 0. -/
theorem getLastD_bitsDown (f : Frame) (n : Nat) (d : Bool) : (bitsDown f (n + 1)).getLastD d = f.getLsbD 0 := by
  induction n generalizing d with
  | zero => rfl
  | succ n ih => exact ih (f.getLsbD (n + 1))

/-- One row on the wires, from any content of the chain: forty bits shifted in under a low strobe, then
latched (R202, R212). -/
theorem driveAll_sendRow (w : Wires) (f : Frame) (hc : w.PIN.clk = false) :
    driveAll w (sendRow f) = ⟨⟨false, f.getLsbD 0, true, w.PIN.oe⟩, ⟨f, f⟩⟩ := by
  rw [sendRow, driveAll_cons, driveAll_append, driveAll_sendBits _ (drive w (.pinWrite .stb false)) hc rfl,
    getLastD_bitsDown f 39, foldl_shiftIn_bitsDown]
  rfl

/-- Settles O27: the rule of one row on the wires. -/
theorem sendingARowLatchesItsFrame : Obligations.SendingARowLatchesItsFrame := driveAll_sendRow

/-- The rows sent before row n, from row 0 on. -/
def sendRows (P : Grid) (n : Nat) : List LineEvent := (List.range n).flatMap fun r => sendRow (rowFrame P r)

theorem sendRows_succ (P : Grid) (n : Nat) : sendRows P (n + 1) = sendRows P n ++ sendRow (rowFrame P n) := by
  simp [sendRows, List.range_succ]

/-- The clock rests low and OE is kept after any number of rows (R205, R207). -/
theorem driveAll_sendRows_levels (P : Grid) (n : Nat) (w : Wires) (hc : w.PIN.clk = false) :
    (driveAll w (sendRows P n)).PIN.clk = false ∧ (driveAll w (sendRows P n)).PIN.oe = w.PIN.oe := by
  induction n with
  | zero => exact ⟨hc, rfl⟩
  | succ n ih =>
    obtain ⟨ihc, iho⟩ := ih
    rw [sendRows_succ, driveAll_append, driveAll_sendRow _ _ ihc]
    exact ⟨rfl, iho⟩

/-- The lines and the chain after a whole transmission: those of its last row (R209, R212). -/
theorem driveAll_transmitEvents (P : Grid) (w : Wires) (hc : w.PIN.clk = false) :
    driveAll w (transmitEvents P)
      = ⟨⟨false, (ROWSEL 7).getLsbD 0, true, w.PIN.oe⟩, ⟨rowFrame P 7, rowFrame P 7⟩⟩ := by
  obtain ⟨hc7, ho7⟩ := driveAll_sendRows_levels P 7 w hc
  have hlast : (rowFrame P 7).getLsbD 0 = (ROWSEL 7).getLsbD 0 := by
    rw [rowFrame, BitVec.getLsbD_append, if_pos (by decide)]
  rw [show transmitEvents P = sendRows P (7 + 1) from rfl, sendRows_succ, driveAll_append,
    driveAll_sendRow _ _ hc7, ho7, hlast]

/-- The wires of a refresh are driven by one whole transmission. -/
theorem refreshed_PIN_sink {s : State} (hc : s.PIN.clk = false) :
    (refreshed s).PIN = ⟨false, (ROWSEL 7).getLsbD 0, true, s.PIN.oe⟩
      ∧ (refreshed s).sink = ⟨rowFrame (refreshed s).P 7, rowFrame (refreshed s).P 7⟩ := by
  have hwires := refreshed_wires s
  rw [driveAll_transmitEvents _ _ hc, ← refreshed_P] at hwires
  exact Wires.mk.inj hwires

/-- Settles O28: the wires of a refresh, from a low clock. -/
theorem refreshLeavesTheLastRowOnTheLines : Obligations.RefreshLeavesTheLastRowOnTheLines :=
  fun s hc => ⟨refreshed s, exec_refresh s, refreshed_PIN_sink hc⟩

/-- A row's select byte is the low end of its frame. -/
theorem extractLsb'_rowFrame (P : Grid) (r : Nat) : (rowFrame P r).extractLsb' 0 8 = ROWSEL r :=
  BitVec.extractLsb'_append_eq_right

/-- A row's columns stand above its select byte in the frame (R203). -/
theorem getLsbD_rowFrame_column (P : Grid) (r c : Nat) : (rowFrame P r).getLsbD (8 + c) = bitOf P r c := by
  rw [rowFrame, BitVec.getLsbD_append, if_neg (by omega), Nat.add_sub_cancel_left, bitOf]

theorem getLsbD_rowFrame_select (P : Grid) (r : Nat) {i : Nat} (hi : i < 8) :
    (rowFrame P r).getLsbD i = (ROWSEL r).getLsbD i := by
  rw [rowFrame, BitVec.getLsbD_append, if_pos hi]

/-- The select bytes of two rows share a bit only when the rows are the same (R204). -/
theorem rowsel_and_rowsel_ne_zero_iff {r : Nat} (hr : r < ROWS) : ROWSEL 7 &&& ROWSEL r ≠ 0#8 ↔ r = 7 := by
  revert r
  decide

/-- Settles O30: the latch holds the last row's frame, whose select byte is row 7's alone. -/
theorem panelShowsTheLastRowAfterRefresh : Obligations.PanelShowsTheLastRowAfterRefresh := by
  refine fun s hc => ⟨refreshed s, exec_refresh s, fun r c => ?_⟩
  obtain ⟨hpin, hsink⟩ := refreshed_PIN_sink hc
  rw [shows, hpin, hsink, extractLsb'_rowFrame, getLsbD_rowFrame_column]
  simp only [Bool.and_eq_true, decide_eq_true_eq, bne_iff_ne, beq_iff_eq]
  constructor
  · rintro ⟨⟨⟨⟨hr, hcol⟩, hsel⟩, hbit⟩, hoe⟩
    exact ⟨(rowsel_and_rowsel_ne_zero_iff hr).mp hsel, hcol, hbit, hoe⟩
  · rintro ⟨rfl, hcol, hbit, hoe⟩
    exact ⟨⟨⟨⟨by decide, hcol⟩, by decide⟩, hbit⟩, hoe⟩

section
/-! A number counted over events, adding up over sequences: of a transmission it is eight times that of a
row, whatever the data. -/

variable {μ : List LineEvent → Nat}

/-- The number of a sequence of events is the sum of its parts'. -/
structure AddsUp (μ : List LineEvent → Nat) : Prop where
  nil : μ [] = 0
  append : ∀ es fs, μ (es ++ fs) = μ es + μ fs

theorem AddsUp.flatMap_const (h : AddsUp μ) {α : Type} {f : α → List LineEvent} {n : Nat} (hf : ∀ a, μ (f a) = n)
    (l : List α) : μ (l.flatMap f) = l.length * n := by
  induction l with
  | nil => rw [List.flatMap_nil, h.nil, List.length_nil, Nat.zero_mul]
  | cons a l ih => rw [List.flatMap_cons, h.append, hf, ih, List.length_cons, Nat.succ_mul, Nat.add_comm]

theorem AddsUp.transmitEvents (h : AddsUp μ) {n : Nat} (hbit : ∀ b, μ (sendBit b) = n) (P : Grid) :
    μ (transmitEvents P) = 8 * (μ [.pinWrite .stb false] + (40 * n + μ [.pinWrite .stb true])) := by
  have hrow (r : Nat) : μ (sendRow (rowFrame P r))
      = μ [.pinWrite .stb false] + (40 * n + μ [.pinWrite .stb true]) := by
    rw [sendRow, ← List.singleton_append, h.append, h.append, h.flatMap_const hbit, bitsDown_length]
  rw [Machine.transmitEvents, h.flatMap_const hrow, List.length_range]

theorem AddsUp.count (e : LineEvent) : AddsUp (List.count e) := ⟨List.count_nil, fun _ _ => List.count_append⟩

theorem AddsUp.add {ν : List LineEvent → Nat} (hμ : AddsUp μ) (hν : AddsUp ν) : AddsUp fun es => μ es + ν es :=
  ⟨by simp only [hμ.nil, hν.nil], fun es fs => by simp only [hμ.append, hν.append]; omega⟩

theorem AddsUp.minDurationUs : AddsUp minDurationUs := by
  refine ⟨rfl, fun es fs => ?_⟩
  induction es with
  | nil => exact (Nat.zero_add _).symm
  | cons e es ih =>
    cases e with
    | pinWrite l v => exact ih
    | delayUs => simp only [List.cons_append, Machine.minDurationUs, ih, Nat.add_assoc]

end

/-- Settles O29: each count is eight times that of one row, and every bit adds the same. -/
theorem refreshEventCountsDoNotDependOnData : Obligations.RefreshEventCountsDoNotDependOnData := by
  intro s
  refine ⟨refreshed s, exec_refresh s, ?_⟩
  rw [refreshed_events]
  have hcount {n : Nat} (e : LineEvent) (hbit : ∀ b, (sendBit b).count e = n) :=
    (AddsUp.count e).transmitEvents hbit (afterCompose s).P
  refine ⟨hcount (n := 0) _ (by decide), hcount (n := 0) _ (by decide), hcount (n := 1) _ (by decide),
    hcount (n := 1) _ (by decide), ?_, hcount (n := 0) _ (by decide), hcount (n := 0) _ (by decide), ?_⟩
  · exact ((AddsUp.count _).add (AddsUp.count _)).transmitEvents (n := 1) (by decide) _
  · rw [AddsUp.minDurationUs.transmitEvents (n := 2 * T_PW_US)]
    · simp only [minDurationUs]
      omega
    · intro b
      simp only [sendBit, minDurationUs]
      omega

end Sys2Proof.Machine
end

section
/-! PROOFS. What a sink records of a transmission (R202, R203, R205, R214). -/

namespace Sys2Proof.Machine

open Sys2Proof.Config

/-- The line register after a sequence of events does not depend on the chain. -/
theorem driveAll_PIN (es : List LineEvent) (w : Wires) : (driveAll w es).PIN = es.foldl pinStep w.PIN := by
  induction es generalizing w with
  | nil => rfl
  | cons e es ih => exact ih (drive w e)

/-- The levels after one row (R202). -/
theorem foldl_pinStep_sendRow (f : Frame) (p : Pins) (hc : p.clk = false) :
    (sendRow f).foldl pinStep p = ⟨false, f.getLsbD 0, true, p.oe⟩ := by
  have h := driveAll_PIN (sendRow f) ⟨p, ⟨0#40, 0#40⟩⟩
  rw [driveAll_sendRow _ _ hc] at h
  exact h.symm

/-- A sink sees one bit per `SendBit`, at the strobe's level (R205). -/
theorem record_sendBits (bits : List Bool) (p : Pins) (hc : p.clk = false) :
    record p (bits.flatMap sendBit) = bits.map fun b => .bit b p.stb := by
  induction bits generalizing p with
  | nil => rfl
  | cons b bits ih =>
    have hp : (sendBit b).foldl pinStep p = ⟨false, b, p.stb, p.oe⟩ := rfl
    have hb : record p (sendBit b) = [.bit b p.stb] := by simp [sendBit, record, observe, pinStep, Pins.write, hc]
    rw [List.flatMap_cons, record_append, hp, hb, ih _ rfl]
    rfl

/-- A sink sees of one row the strobe go low, when it was high, the forty bits, and the strobe go high. -/
theorem record_sendRow (f : Frame) (p : Pins) (hc : p.clk = false) :
    record p (sendRow f)
      = (if p.stb = false then [] else [.strobe false]) ++ (bitsDown f FRAME_W).map (fun b => .bit b false)
        ++ [.strobe true] := by
  have hbits := driveAll_PIN ((bitsDown f FRAME_W).flatMap sendBit) ⟨p.write .stb false, ⟨0#40, 0#40⟩⟩
  rw [driveAll_sendBits _ _ hc rfl] at hbits
  rw [sendRow, record, record_append, pinStep, record_sendBits _ (p.write .stb false) hc, ← hbits, List.append_assoc]
  rfl

/-- The bits of a frame's low n, as a list by index. -/
theorem bitsDown_eq_map (f : Frame) (n : Nat) : bitsDown f n = (List.range n).map fun j => f.getLsbD (n - 1 - j) := by
  induction n with
  | zero => rfl
  | succ n ih =>
    rw [bitsDown, ih, List.range_succ_eq_map, List.map_cons, List.map_map]
    congr 1
    apply List.map_congr_left
    intro j _
    rw [Function.comp_apply]
    congr 1
    omega

/-- The bits of a row in the order sent: columns 31 down to 0, then select bits 7 down to 0 (R203). -/
theorem bitsDown_rowFrame (P : Grid) (r : Nat) :
    bitsDown (rowFrame P r) FRAME_W
      = ((List.range COLS).map fun j => bitOf P r (31 - j))
        ++ ((List.range 8).map fun j => (ROWSEL r).getLsbD (7 - j)) := by
  rw [bitsDown_eq_map, show FRAME_W = 32 + 8 from rfl, List.range_add, List.map_append, List.map_map]
  congr 1
  · apply List.map_congr_left
    intro j hj
    have hj' : j < 32 := List.mem_range.mp hj
    rw [← getLsbD_rowFrame_column]
    congr 1
    omega
  · apply List.map_congr_left
    intro j hj
    have hj' : j < 8 := List.mem_range.mp hj
    rw [Function.comp_apply, ← getLsbD_rowFrame_select P r (by omega)]
    congr 1
    omega

/-- What a sink sees of row r, in a transmission that finds the strobe at level `stb`. -/
def rowRecord (P : Grid) (stb : Bool) (r : Nat) : List LineObs :=
  (if r = 0 ∧ stb = false then [] else [.strobe false])
    ++ ((List.range COLS).map fun j => .bit (bitOf P r (31 - j)) false)
    ++ ((List.range 8).map fun j => .bit ((ROWSEL r).getLsbD (7 - j)) false)
    ++ [.strobe true]

/-- The levels before row n: the clock low, and the strobe as found for row 0, high for every other. -/
theorem levels_before_row (P : Grid) (n : Nat) {p : Pins} (hc : p.clk = false) :
    ((sendRows P n).foldl pinStep p).clk = false
      ∧ (((sendRows P n).foldl pinStep p).stb = false ↔ n = 0 ∧ p.stb = false) := by
  induction n with
  | zero => exact ⟨hc, (and_iff_right rfl).symm⟩
  | succ n ih =>
    rw [sendRows_succ, List.foldl_append, foldl_pinStep_sendRow _ _ ih.1]
    simp

/-- What a sink sees of the first n rows. -/
theorem record_sendRows (P : Grid) (n : Nat) {p : Pins} (hc : p.clk = false) :
    record p (sendRows P n) = (List.range n).flatMap (rowRecord P p.stb) := by
  induction n with
  | zero => rfl
  | succ n ih =>
    obtain ⟨hclk, hstb⟩ := levels_before_row P n hc
    rw [sendRows_succ, record_append, ih, record_sendRow _ _ hclk, List.range_succ, List.flatMap_append,
      List.flatMap_singleton, rowRecord, bitsDown_rowFrame, List.map_append, List.map_map, List.map_map]
    simp only [hstb, List.append_assoc]
    rfl

/-- Settles O26: a frame is a row above its select byte, and a transmission is recorded row by row. -/
theorem refreshSendsEveryRowMostSignificantBitFirst : Obligations.RefreshSendsEveryRowMostSignificantBitFirst := by
  refine ⟨fun P r => ?_, fun s hc => ⟨refreshed s, exec_refresh s, ?_⟩⟩
  · rw [rowFrame, ← BitVec.setWidth_append_eq_shiftLeft_setWidth_or, BitVec.setWidth_eq]
  · rw [refreshed_events, ← refreshed_P]
    exact record_sendRows _ ROWS hc

end Sys2Proof.Machine
end

section
/-! PROOFS. The invariant of every step, and what no operation changes of the lines (R29, R207). -/

namespace Sys2Proof.Machine

open Sys2Proof.Config

/-- Events that write no OE level leave it as it was. -/
theorem foldl_pinStep_oe {es : List LineEvent} (h : ∀ v, .pinWrite .oe v ∉ es) (p : Pins) :
    (es.foldl pinStep p).oe = p.oe := by
  induction es generalizing p with
  | nil => rfl
  | cons e es ih =>
    have htail : ∀ v, .pinWrite .oe v ∉ es := fun v hv => h v (List.mem_cons_of_mem e hv)
    rw [List.foldl_cons, ih htail]
    cases e with
    | delayUs => rfl
    | pinWrite l v =>
      cases l with
      | oe => exact absurd List.mem_cons_self (h v)
      | clk | data | stb => rfl

/-- No transmission writes OE (R207). -/
theorem oe_not_mem_transmitEvents (P : Grid) (v : Bool) : .pinWrite .oe v ∉ transmitEvents P := by
  apply List.count_eq_zero.mp
  cases v <;> exact (AddsUp.count _).transmitEvents (n := 0) (by decide) P

/-- A refresh keeps the output-enable level, whatever the lines were (D19). -/
theorem refreshed_PIN_oe (s : State) : (refreshed s).PIN.oe = s.PIN.oe := by
  have hpin : (refreshed s).PIN = (transmitEvents (afterCompose s).P).foldl pinStep s.PIN := by
    rw [← driveAll_PIN _ ⟨s.PIN, s.sink⟩, ← refreshed_wires]
  rw [hpin, foldl_pinStep_oe (oe_not_mem_transmitEvents _)]

/-- Settles O32: no operation but REFRESH touches the lines, and no refresh writes OE. -/
theorem operationsNeverWriteCounterOrOutputEnable : Obligations.OperationsNeverWriteCounterOrOutputEnable := by
  intro i s t h
  obtain ⟨-, rfl⟩ | ⟨-, rfl⟩ := exec_next_cases h
  · exact ⟨rfl, rfl, rfl⟩
  · exact ⟨refreshed_NOW s, refreshed_inputs s, refreshed_PIN_oe s⟩

end Sys2Proof.Machine
end

section
/-! PROOFS. The invariant of every step, from reset on (R23, R25, R29, R38, R94, R209, R212). -/

namespace Sys2Proof.Machine

open Sys2Proof.Config

/-- Reset's masks are empty, its phases bright, its durations those of the bright phase. -/
theorem resetWith_class (t0 : Vector Time NCLASS) (oe : Bool) (now : Time) (chain : Sink) (k : ClassIx) :
    (State.resetWith t0 oe now chain).M[k] = emptyGrid ∧ (State.resetWith t0 oe now chain).PH[k] = .bright
      ∧ (State.resetWith t0 oe now chain).DUR[k] = BRIGHT_MS[k] := by
  refine ⟨Vector.getElem_replicate _, ?_, rfl⟩
  change PHASE_INIT[k] = .bright
  revert k
  decide

/-- Settles O1: the reset table field by field; `State.reset` is the row of it that the model names. -/
theorem resetLeavesGridsDarkAndPhasesBright : Obligations.ResetLeavesGridsDarkAndPhasesBright := by
  refine ⟨fun t0 oe now chain => ?_, ⟨_, _, _, _, rfl⟩⟩
  refine ⟨bitOf_emptyGrid, bitOf_emptyGrid, fun k r c => ?_, fun k => ?_, rfl, rfl, rfl, rfl, rfl, rfl, rfl, rfl, rfl⟩
  · rw [(resetWith_class t0 oe now chain k).1, bitOf_emptyGrid]
  · obtain ⟨-, hph, hdur⟩ := resetWith_class t0 oe now chain k
    exact ⟨hph, hdur, rfl⟩

/-- Settles O2: bright phases with their durations, a low strobe, nothing on the ports. -/
theorem resetMeetsTheStepInvariant : Obligations.ResetMeetsTheStepInvariant := by
  intro t0 oe now chain
  have hclass := resetWith_class t0 oe now chain
  refine ⟨fun k => ?_, rfl, .inl rfl, fun _ => ⟨rfl, fun k => (hclass k).2.1, rfl⟩,
    fun h => absurd h Bool.false_ne_true, .inl rfl⟩
  rw [(hclass k).2.1, (hclass k).2.2, durationOf]

section
variable {s : State}

/-- The invariant does not speak of what the outside holds. -/
theorem Inv.with_outside (h : Inv s) (inputs : List Input) (now : Time) :
    Inv { s with inputs := inputs, NOW := now } :=
  ⟨h.duration_matches_phase, h.clock_low, h.events_whole, h.before_first_refresh, h.after_refresh, h.result_legal⟩

/-- Nor of `L` and the masks: a command that writes no more than these and answers one of the four codes
keeps it. -/
theorem Inv.with_logical (h : Inv s) (L : Grid) (M : Vector Grid NCLASS) {r : Byte}
    (hr : r ∈ [OK, FAIL, INVALID, ILLEGAL]) :
    Inv { s with L := L, M := M, result := some r, events := [] } :=
  ⟨h.duration_matches_phase, h.clock_low, .inl rfl, h.before_first_refresh, h.after_refresh, .inr ⟨r, hr, rfl⟩⟩

/-- Every answer is one of the four codes (R94). -/
theorem answer_mem_codes (L : Grid) (M : Vector Grid NCLASS) (i : Instr) :
    answer L M i ∈ [OK, FAIL, INVALID, ILLEGAL] := by
  have hcheck (p : Prop) [Decidable p] : (if p then OK else FAIL) ∈ [OK, FAIL, INVALID, ILLEGAL] := by
    split <;> decide
  cases i with
  | refresh => exact List.mem_cons_self
  | qryblink row col k =>
    rw [answer]
    split
    · exact hcheck _
    · decide
  | _ => exact hcheck _

/-- The durations still match the phases after a refresh: a flipped class has its new phase's, a kept class
its old (R25). -/
theorem duration_matches_phase_refreshed (h : ∀ k : ClassIx, s.DUR[k] = durationOf k s.PH[k]) (k : ClassIx) :
    (refreshed s).DUR[k] = durationOf k (refreshed s).PH[k] := by
  by_cases hexp : Expired s k
  · obtain ⟨hph, -, hdur⟩ := ClassPhase.mk.inj (classPhase_refreshed_of_expired hexp.1 hexp.2)
    rw [hph, hdur]
  · obtain ⟨hph, -, hdur⟩ := ClassPhase.mk.inj (classPhase_refreshed_of_not_expired hexp)
    rw [hph, hdur, h]

/-- A refresh establishes the clauses of a high strobe and keeps the others. -/
theorem Inv.refreshed (h : Inv s) : Inv (refreshed s) := by
  obtain ⟨hpin, hsink⟩ := refreshed_PIN_sink h.clock_low
  refine ⟨duration_matches_phase_refreshed h.duration_matches_phase, ?_, .inr ?_, ?_, fun _ => ?_, .inr ⟨OK, ?_, ?_⟩⟩
  · rw [hpin]
  · rw [refreshed_events, refreshed_P]
  · intro hlow
    rw [hpin] at hlow
    exact absurd hlow.symm Bool.false_ne_true
  · rw [hpin, hsink]
    exact ⟨rfl, rfl, rfl⟩
  · decide
  · exact refreshed_result s

/-- Every operation keeps the invariant. -/
theorem Inv.exec {t : State} {i : Instr} (h : Inv s) (he : exec i s = .next t) : Inv t := by
  obtain ⟨-, rfl⟩ | ⟨-, rfl⟩ := exec_next_cases he
  · exact h.with_logical _ _ (answer_mem_codes s.L s.M i)
  · exact h.refreshed

end

/-- Settles O3: by what the step does: nothing, an operation, an illegal command, or a passage of time. -/
theorem everyStepKeepsTheStepInvariant : Obligations.EveryStepKeepsTheStepInvariant := by
  intro s t h hstep
  obtain ⟨-, rfl⟩ | ⟨rest, w, i, -, -, he⟩ | ⟨rest, w, e, -, -, rfl⟩ | ⟨rest, d, -, rfl⟩ := step_next_cases hstep
  · exact h
  · exact (h.with_outside rest s.NOW).exec he
  · exact (h.with_outside rest s.NOW).with_logical s.L s.M (by decide)
  · exact h.with_outside rest (s.NOW + d)

end Sys2Proof.Machine
end
